-- ==== Sys2Proof/Word.lean ====
section
/-! DEFINITION. Word.lean: the widths of the machine's values (spec/00_scope.md R3, R6). -/

namespace Sys2Proof

/-- A register, a port's data, an IV-bus address: 8 bits, bit 0 the least significant (R6). -/
abbrev Byte := BitVec 8

/-- An instruction word: lines I0 to I15, line I15 at bit 0 (R6). -/
abbrev Word := BitVec 16

/-- A program-storage address: lines A0 to A12, line A12 at bit 0 (R6). -/
abbrev ProgAddr := BitVec 13

end Sys2Proof
end

