-- ==== Sys2Proof/Syntax.lean ====
section
/-! DEFINITION. Syntax.lean: registers, banks, IV-bus fields and the instructions, one constructor for each of the
38 rows of spec/opcode_table.json (spec/30_encoding.md R94, R95). -/

namespace Sys2Proof

/-- The sixteen internal registers under the manual's octal names (spec/10_state.md R20, R21). -/
inductive Reg where
  | r0 | r1 | r2 | r3 | r4 | r5 | r6 | r7
  | r10 | r11 | r12 | r13 | r14 | r15 | r16 | r17
  deriving DecidableEq, Repr

/-- The two banks of the IV bus (spec/20_memory.md R50). -/
inductive Bank where
  | left | right
  deriving DecidableEq, Repr

/-- An S or D operand that names the IV bus (R88): the bank (S1 or D1) and the manual's number of the bit that is the
field's least significant one (S0 or D0; the manual's bit 7 is the byte's bit 0, R6). -/
structure IvField where
  bank : Bank
  pos  : BitVec 3
  deriving DecidableEq, Repr

/-- The instructions. `rot` is the R field, `len` the L field (0 means 8 bits, R9), `lit` the J field. A reserved row
keeps the bits its word has: the 5-bit S field and the R/L field, or J (R97). -/
inductive Instr where
  -- MOVE (spec/40_move.md)
  | moveRegReg   (src : Reg) (rot : BitVec 3) (dst : Reg)
  | moveRegAddr  (src : Reg) (rot : BitVec 3) (bank : Bank)
  | moveRegIv    (src : Reg) (len : BitVec 3) (dst : IvField)
  | moveIvReg    (src : IvField) (len : BitVec 3) (dst : Reg)
  | moveIvIv     (src : IvField) (len : BitVec 3) (dst : IvField)
  | moveIvAddr   (src : IvField) (len : BitVec 3) (bank : Bank)
  | moveReserved (src : BitVec 5) (rl : BitVec 3)
  -- ADD (spec/41_add.md)
  | addRegReg    (src : Reg) (rot : BitVec 3) (dst : Reg)
  | addRegAddr   (src : Reg) (rot : BitVec 3) (bank : Bank)
  | addRegIv     (src : Reg) (len : BitVec 3) (dst : IvField)
  | addIvReg     (src : IvField) (len : BitVec 3) (dst : Reg)
  | addIvIv      (src : IvField) (len : BitVec 3) (dst : IvField)
  | addIvAddr    (src : IvField) (len : BitVec 3) (bank : Bank)
  | addReserved  (src : BitVec 5) (rl : BitVec 3)
  -- AND (spec/42_and.md)
  | andRegReg    (src : Reg) (rot : BitVec 3) (dst : Reg)
  | andRegAddr   (src : Reg) (rot : BitVec 3) (bank : Bank)
  | andRegIv     (src : Reg) (len : BitVec 3) (dst : IvField)
  | andIvReg     (src : IvField) (len : BitVec 3) (dst : Reg)
  | andIvIv      (src : IvField) (len : BitVec 3) (dst : IvField)
  | andIvAddr    (src : IvField) (len : BitVec 3) (bank : Bank)
  | andReserved  (src : BitVec 5) (rl : BitVec 3)
  -- XOR (spec/43_xor.md)
  | xorRegReg    (src : Reg) (rot : BitVec 3) (dst : Reg)
  | xorRegAddr   (src : Reg) (rot : BitVec 3) (bank : Bank)
  | xorRegIv     (src : Reg) (len : BitVec 3) (dst : IvField)
  | xorIvReg     (src : IvField) (len : BitVec 3) (dst : Reg)
  | xorIvIv      (src : IvField) (len : BitVec 3) (dst : IvField)
  | xorIvAddr    (src : IvField) (len : BitVec 3) (bank : Bank)
  | xorReserved  (src : BitVec 5) (rl : BitVec 3)
  -- XEC (spec/44_xec.md)
  | xecReg       (src : Reg) (lit : BitVec 8)
  | xecIv        (src : IvField) (len : BitVec 3) (lit : BitVec 5)
  -- NZT (spec/45_nzt.md)
  | nztReg       (src : Reg) (lit : BitVec 8)
  | nztIv        (src : IvField) (len : BitVec 3) (lit : BitVec 5)
  -- XMIT (spec/46_xmit.md)
  | xmitReg      (dst : Reg) (lit : BitVec 8)
  | xmitAddr     (bank : Bank) (lit : BitVec 8)
  | xmitIv8      (bank : Bank) (lit : BitVec 8)
  | xmitIv       (dst : IvField) (len : BitVec 3) (lit : BitVec 5)
  | xmitReserved (lit : BitVec 8)
  -- JMP (spec/47_jmp.md)
  | jmp          (addr : ProgAddr)
  deriving DecidableEq, Repr

/-- The four classes that share the six source and destination forms of R94. -/
inductive AluOp where
  | move | add | and | xor
  deriving DecidableEq, Repr

/-- The source and destination part of a MOVE, ADD, AND or XOR word: the six forms of R94 and the reserved one of R97. -/
inductive AluForm where
  | regReg   (src : Reg) (rot : BitVec 3) (dst : Reg)
  | regAddr  (src : Reg) (rot : BitVec 3) (bank : Bank)
  | regIv    (src : Reg) (len : BitVec 3) (dst : IvField)
  | ivReg    (src : IvField) (len : BitVec 3) (dst : Reg)
  | ivIv     (src : IvField) (len : BitVec 3) (dst : IvField)
  | ivAddr   (src : IvField) (len : BitVec 3) (bank : Bank)
  | reserved (src : BitVec 5) (rl : BitVec 3)
  deriving DecidableEq, Repr

end Sys2Proof
end

