-- ==== Sys2Proof/WellFormed.lean ====
section
/-! DEFINITION. WellFormed.lean: which instructions some instruction word stands for (spec/30_encoding.md R94). Field
widths are in the types; what is left is the destination registers that a form does not take, because their words
belong to another form. -/

namespace Sys2Proof

/-- The destinations of the Register forms of MOVE, ADD, AND, XOR: not R7, R17 (the IV Bus Address form) and not R10
(reserved, R97). -/
def Reg.plainDst : Reg → Bool
  | .r7 | .r10 | .r17 => false
  | .r0 | .r1 | .r2 | .r3 | .r4 | .r5 | .r6 | .r11 | .r12 | .r13 | .r14 | .r15 | .r16 => true

/-- The destinations of XMIT-Register: those of `Reg.plainDst` but for R12 and R13, whose words are XMIT-Register, IV
Bus (R172). -/
def Reg.xmitDst : Reg → Bool
  | .r7 | .r10 | .r12 | .r13 | .r17 => false
  | .r0 | .r1 | .r2 | .r3 | .r4 | .r5 | .r6 | .r11 | .r14 | .r15 | .r16 => true

/-- The instruction is the reading of some word: its destination register is one its form takes. -/
def Instr.wellFormed : Instr → Bool
  | .moveRegReg _ _ d | .addRegReg _ _ d | .andRegReg _ _ d | .xorRegReg _ _ d => d.plainDst
  | .moveIvReg _ _ d | .addIvReg _ _ d | .andIvReg _ _ d | .xorIvReg _ _ d => d.plainDst
  | .xmitReg d _ => d.xmitDst
  | .moveRegAddr _ _ _ | .addRegAddr _ _ _ | .andRegAddr _ _ _ | .xorRegAddr _ _ _ => true
  | .moveRegIv _ _ _ | .addRegIv _ _ _ | .andRegIv _ _ _ | .xorRegIv _ _ _ => true
  | .moveIvIv _ _ _ | .addIvIv _ _ _ | .andIvIv _ _ _ | .xorIvIv _ _ _ => true
  | .moveIvAddr _ _ _ | .addIvAddr _ _ _ | .andIvAddr _ _ _ | .xorIvAddr _ _ _ => true
  | .moveReserved _ _ | .addReserved _ _ | .andReserved _ _ | .xorReserved _ _ => true
  | .xecReg _ _ | .xecIv _ _ _ | .nztReg _ _ | .nztIv _ _ _ => true
  | .xmitAddr _ _ | .xmitIv8 _ _ | .xmitIv _ _ _ | .xmitReserved _ | .jmp _ => true

/-- The five reserved rows (R97): words whose destination is R10. -/
def Instr.reserved : Instr → Bool
  | .moveReserved _ _ | .addReserved _ _ | .andReserved _ _ | .xorReserved _ _ | .xmitReserved _ => true
  | .moveRegReg _ _ _ | .addRegReg _ _ _ | .andRegReg _ _ _ | .xorRegReg _ _ _ => false
  | .moveIvReg _ _ _ | .addIvReg _ _ _ | .andIvReg _ _ _ | .xorIvReg _ _ _ => false
  | .moveRegAddr _ _ _ | .addRegAddr _ _ _ | .andRegAddr _ _ _ | .xorRegAddr _ _ _ => false
  | .moveRegIv _ _ _ | .addRegIv _ _ _ | .andRegIv _ _ _ | .xorRegIv _ _ _ => false
  | .moveIvIv _ _ _ | .addIvIv _ _ _ | .andIvIv _ _ _ | .xorIvIv _ _ _ => false
  | .moveIvAddr _ _ _ | .addIvAddr _ _ _ | .andIvAddr _ _ _ | .xorIvAddr _ _ _ => false
  | .xecReg _ _ | .xecIv _ _ _ | .nztReg _ _ | .nztIv _ _ _ => false
  | .xmitReg _ _ | .xmitAddr _ _ | .xmitIv8 _ _ | .xmitIv _ _ _ | .jmp _ => false

/-- The form of a MOVE, ADD, AND or XOR is the reading of some word's S, R/L and D fields. -/
def AluForm.wellFormed : AluForm → Bool
  | .regReg _ _ d | .ivReg _ _ d => d.plainDst
  | .regAddr _ _ _ | .regIv _ _ _ | .ivIv _ _ _ | .ivAddr _ _ _ | .reserved _ _ => true

end Sys2Proof
end

