-- ==== Sys2Proof/Decode.lean ====
section
/-! DEFINITION. Decode.lean: from a word to its instruction and back (spec/30_encoding.md). Every 16-bit word is the word
of exactly one of the 38 rows (R94, R95), so the decoder of a word refuses nothing; the decoder of bytes refuses, by
name, what holds no whole word. -/

namespace Sys2Proof

/-! ## Register and bank numbers -/

/-- The register of a 4-bit number (R20: the number is the value of the octal name). -/
def Reg.ofBits (b : BitVec 4) : Reg :=
  match b with
  | 0#4 => .r0 | 1#4 => .r1 | 2#4 => .r2 | 3#4 => .r3
  | 4#4 => .r4 | 5#4 => .r5 | 6#4 => .r6 | 7#4 => .r7
  | 8#4 => .r10 | 9#4 => .r11 | 10#4 => .r12 | 11#4 => .r13
  | 12#4 => .r14 | 13#4 => .r15 | 14#4 => .r16 | _ => .r17

/-- The 4-bit number of a register (R20). -/
def Reg.toBits : Reg → BitVec 4
  | .r0 => 0#4 | .r1 => 1#4 | .r2 => 2#4 | .r3 => 3#4
  | .r4 => 4#4 | .r5 => 5#4 | .r6 => 6#4 | .r7 => 7#4
  | .r10 => 8#4 | .r11 => 9#4 | .r12 => 10#4 | .r13 => 11#4
  | .r14 => 12#4 | .r15 => 13#4 | .r16 => 14#4 | .r17 => 15#4

/-- The bank of the next-to-high bit of an IV-bus field: 0 Left, 1 Right (R88). -/
def Bank.ofBit (b : BitVec 1) : Bank :=
  if b = 1#1 then .right else .left

/-- The bank's bit in an S or D field (R88). -/
def Bank.toBit : Bank → BitVec 1
  | .left => 0#1
  | .right => 1#1

/-- The register that holds the bank's port address: R7 = IVL, R17 = IVR (R21). -/
def Bank.addrReg : Bank → Reg
  | .left => .r7
  | .right => .r17

/-- The register whose number stands for the bank in XMIT-Register, IV Bus: R12 Left, R13 Right (R172). -/
def Bank.dataReg : Bank → Reg
  | .left => .r12
  | .right => .r13

/-! ## S and D fields (R88) -/

/-- The 5-bit field of a register: high bit 0. -/
def Reg.toField (r : Reg) : BitVec 5 := 0#1 ++ r.toBits

/-- The 5-bit field of an IV-bus operand: high bit 1, the bank's bit, the position. -/
def IvField.toField (f : IvField) : BitVec 5 := 1#1 ++ (f.bank.toBit ++ f.pos)

/-- The register of a field whose high bit is 0. -/
def regOfField (f : BitVec 5) : Reg := Reg.ofBits (f.extractLsb' 0 4)

/-- The IV-bus operand of a field whose high bit is 1. -/
def ivOfField (f : BitVec 5) : IvField := ⟨Bank.ofBit (f.extractLsb' 3 1), f.extractLsb' 0 3⟩

/-- The high bit of a field: the field names the IV bus. -/
def fieldIsIv (f : BitVec 5) : Bool := f.getLsbD 4

/-! ## The decoder -/

/-- The decode tree of the classes MOVE, ADD, AND and XOR (R94). -/
def decodeAlu (s : BitVec 5) (rl : BitVec 3) (d : BitVec 5) : AluForm :=
  if fieldIsIv d then
    if fieldIsIv s then .ivIv (ivOfField s) rl (ivOfField d)
    else .regIv (regOfField s) rl (ivOfField d)
  else if regOfField d = .r10 then .reserved s rl
  else if fieldIsIv s then
    if regOfField d = .r7 then .ivAddr (ivOfField s) rl .left
    else if regOfField d = .r17 then .ivAddr (ivOfField s) rl .right
    else .ivReg (ivOfField s) rl (regOfField d)
  else
    if regOfField d = .r7 then .regAddr (regOfField s) rl .left
    else if regOfField d = .r17 then .regAddr (regOfField s) rl .right
    else .regReg (regOfField s) rl (regOfField d)

/-- The instruction of a class and a form. -/
def Instr.ofAlu (op : AluOp) (f : AluForm) : Instr :=
  match op, f with
  | .move, .regReg s r d => .moveRegReg s r d
  | .move, .regAddr s r b => .moveRegAddr s r b
  | .move, .regIv s l d => .moveRegIv s l d
  | .move, .ivReg s l d => .moveIvReg s l d
  | .move, .ivIv s l d => .moveIvIv s l d
  | .move, .ivAddr s l b => .moveIvAddr s l b
  | .move, .reserved s rl => .moveReserved s rl
  | .add, .regReg s r d => .addRegReg s r d
  | .add, .regAddr s r b => .addRegAddr s r b
  | .add, .regIv s l d => .addRegIv s l d
  | .add, .ivReg s l d => .addIvReg s l d
  | .add, .ivIv s l d => .addIvIv s l d
  | .add, .ivAddr s l b => .addIvAddr s l b
  | .add, .reserved s rl => .addReserved s rl
  | .and, .regReg s r d => .andRegReg s r d
  | .and, .regAddr s r b => .andRegAddr s r b
  | .and, .regIv s l d => .andRegIv s l d
  | .and, .ivReg s l d => .andIvReg s l d
  | .and, .ivIv s l d => .andIvIv s l d
  | .and, .ivAddr s l b => .andIvAddr s l b
  | .and, .reserved s rl => .andReserved s rl
  | .xor, .regReg s r d => .xorRegReg s r d
  | .xor, .regAddr s r b => .xorRegAddr s r b
  | .xor, .regIv s l d => .xorRegIv s l d
  | .xor, .ivReg s l d => .xorIvReg s l d
  | .xor, .ivIv s l d => .xorIvIv s l d
  | .xor, .ivAddr s l b => .xorIvAddr s l b
  | .xor, .reserved s rl => .xorReserved s rl

/-- The decode tree of the class XMIT (R94): the destination stands where the other classes have S (R84, R86). -/
def decodeXmit (d : BitVec 5) (len : BitVec 3) (lit5 : BitVec 5) (lit8 : BitVec 8) : Instr :=
  if fieldIsIv d then .xmitIv (ivOfField d) len lit5
  else match regOfField d with
    | .r7 => .xmitAddr .left lit8
    | .r17 => .xmitAddr .right lit8
    | .r10 => .xmitReserved lit8
    | .r12 => .xmitIv8 .left lit8
    | .r13 => .xmitIv8 .right lit8
    | .r0 => .xmitReg .r0 lit8
    | .r1 => .xmitReg .r1 lit8
    | .r2 => .xmitReg .r2 lit8
    | .r3 => .xmitReg .r3 lit8
    | .r4 => .xmitReg .r4 lit8
    | .r5 => .xmitReg .r5 lit8
    | .r6 => .xmitReg .r6 lit8
    | .r11 => .xmitReg .r11 lit8
    | .r14 => .xmitReg .r14 lit8
    | .r15 => .xmitReg .r15 lit8
    | .r16 => .xmitReg .r16 lit8

/-- The instruction of a word's fields (the complete decode of R94): the operation code, S or XMIT's D, R or L, D or a 5-bit
J, an 8-bit J, JMP's address. -/
def decodeFields (op : BitVec 3) (hi5 : BitVec 5) (mid3 : BitVec 3) (lo5 : BitVec 5) (lo8 : BitVec 8) (lo13 : ProgAddr) :
    Instr :=
  match op with
  | 0#3 => Instr.ofAlu .move (decodeAlu hi5 mid3 lo5)
  | 1#3 => Instr.ofAlu .add (decodeAlu hi5 mid3 lo5)
  | 2#3 => Instr.ofAlu .and (decodeAlu hi5 mid3 lo5)
  | 3#3 => Instr.ofAlu .xor (decodeAlu hi5 mid3 lo5)
  | 4#3 => if fieldIsIv hi5 then .xecIv (ivOfField hi5) mid3 lo5 else .xecReg (regOfField hi5) lo8
  | 5#3 => if fieldIsIv hi5 then .nztIv (ivOfField hi5) mid3 lo5 else .nztReg (regOfField hi5) lo8
  | 6#3 => decodeXmit hi5 mid3 lo5 lo8
  | _ => .jmp lo13

/-- The instruction of a word, from the field places of R80 to R87. It looks at nothing but the word (R96). -/
def decodeWord (w : Word) : Instr :=
  decodeFields (w.extractLsb' 13 3) (w.extractLsb' 8 5) (w.extractLsb' 5 3) (w.extractLsb' 0 5) (w.extractLsb' 0 8)
    (w.extractLsb' 0 13)

/-- Why bytes hold no instruction. -/
inductive DecodeError where
  /-- Fewer than two bytes: every instruction is one 16-bit word (R3). Raised by `decode` only; a fetch always has both
  bytes of a word. Safe. -/
  | truncated
  deriving DecidableEq, Repr

/-- The instruction at the head of a list of bytes, and the bytes behind it; the more significant byte of a word comes
first (R68, D15). -/
def decode : List Byte → Except DecodeError (Instr × List Byte)
  | hi :: lo :: rest => .ok (decodeWord (hi ++ lo), rest)
  | [_] | [] => .error .truncated

/-- The two bytes of a word as program storage holds them (R68, D15). -/
def Word.bytes (w : Word) : List Byte := [w.extractLsb' 8 8, w.extractLsb' 0 8]

/-- The host's question: the instruction the decoder reads from the word `w` of `nbits` bits (all other bits 0). -/
def decodeTableWord (nbits w : Nat) : Option Instr :=
  match decode (Word.bytes (BitVec.ofNat 16 (w % 2 ^ nbits))) with
  | .ok (i, _) => some i
  | .error _ => none

/-! ## The encoder -/

/-- The lower thirteen bits of a MOVE, ADD, AND or XOR word: S, R or L, D (R81, R82). -/
def encodeAlu : AluForm → BitVec 13
  | .regReg s r d => s.toField ++ (r ++ d.toField)
  | .regAddr s r b => s.toField ++ (r ++ b.addrReg.toField)
  | .regIv s l d => s.toField ++ (l ++ d.toField)
  | .ivReg s l d => s.toField ++ (l ++ d.toField)
  | .ivIv s l d => s.toField ++ (l ++ d.toField)
  | .ivAddr s l b => s.toField ++ (l ++ b.addrReg.toField)
  | .reserved s rl => s ++ (rl ++ Reg.r10.toField)

/-- The operation code (R93). -/
def AluOp.toBits : AluOp → BitVec 3
  | .move => 0#3
  | .add => 1#3
  | .and => 2#3
  | .xor => 3#3

/-- The word of a MOVE, ADD, AND or XOR. -/
def encodeAluWord (op : AluOp) (f : AluForm) : Word := op.toBits ++ encodeAlu f

/-- The word of an instruction, from the formats of R81 to R87. -/
def encodeWord : Instr → Word
  | .moveRegReg s r d => encodeAluWord .move (.regReg s r d)
  | .moveRegAddr s r b => encodeAluWord .move (.regAddr s r b)
  | .moveRegIv s l d => encodeAluWord .move (.regIv s l d)
  | .moveIvReg s l d => encodeAluWord .move (.ivReg s l d)
  | .moveIvIv s l d => encodeAluWord .move (.ivIv s l d)
  | .moveIvAddr s l b => encodeAluWord .move (.ivAddr s l b)
  | .moveReserved s rl => encodeAluWord .move (.reserved s rl)
  | .addRegReg s r d => encodeAluWord .add (.regReg s r d)
  | .addRegAddr s r b => encodeAluWord .add (.regAddr s r b)
  | .addRegIv s l d => encodeAluWord .add (.regIv s l d)
  | .addIvReg s l d => encodeAluWord .add (.ivReg s l d)
  | .addIvIv s l d => encodeAluWord .add (.ivIv s l d)
  | .addIvAddr s l b => encodeAluWord .add (.ivAddr s l b)
  | .addReserved s rl => encodeAluWord .add (.reserved s rl)
  | .andRegReg s r d => encodeAluWord .and (.regReg s r d)
  | .andRegAddr s r b => encodeAluWord .and (.regAddr s r b)
  | .andRegIv s l d => encodeAluWord .and (.regIv s l d)
  | .andIvReg s l d => encodeAluWord .and (.ivReg s l d)
  | .andIvIv s l d => encodeAluWord .and (.ivIv s l d)
  | .andIvAddr s l b => encodeAluWord .and (.ivAddr s l b)
  | .andReserved s rl => encodeAluWord .and (.reserved s rl)
  | .xorRegReg s r d => encodeAluWord .xor (.regReg s r d)
  | .xorRegAddr s r b => encodeAluWord .xor (.regAddr s r b)
  | .xorRegIv s l d => encodeAluWord .xor (.regIv s l d)
  | .xorIvReg s l d => encodeAluWord .xor (.ivReg s l d)
  | .xorIvIv s l d => encodeAluWord .xor (.ivIv s l d)
  | .xorIvAddr s l b => encodeAluWord .xor (.ivAddr s l b)
  | .xorReserved s rl => encodeAluWord .xor (.reserved s rl)
  | .xecReg s j => 4#3 ++ (s.toField ++ j)
  | .xecIv s l j => 4#3 ++ (s.toField ++ (l ++ j))
  | .nztReg s j => 5#3 ++ (s.toField ++ j)
  | .nztIv s l j => 5#3 ++ (s.toField ++ (l ++ j))
  | .xmitReg d j => 6#3 ++ (d.toField ++ j)
  | .xmitAddr b j => 6#3 ++ (b.addrReg.toField ++ j)
  | .xmitIv8 b j => 6#3 ++ (b.dataReg.toField ++ j)
  | .xmitIv d l j => 6#3 ++ (d.toField ++ (l ++ j))
  | .xmitReserved j => 6#3 ++ (Reg.r10.toField ++ j)
  | .jmp a => 7#3 ++ a

/-- The bytes of an instruction, as program storage holds them. -/
def encode (i : Instr) : List Byte := Word.bytes (encodeWord i)

end Sys2Proof
end

