-- ==== Sys2Proof/Config.lean ====
section
/-! DEFINITION. Config.lean: the values the spec leaves open, as constants without a body: nothing can be proved of
which byte they are, so a claim holds whatever they are (spec/00_scope.md R4; spec/93_implementation_defined.md). -/

namespace Sys2Proof

/-- What program storage presents at a byte nobody has loaded: the parameter `ProgMem` of R4 and R53 where no program
lists it (U8). Byte 2a is the more significant byte of word a (D15). FREE VALUE (log 5). -/
opaque Config.progByte : Nat → Byte

/-- What a port holds that nothing has written since power-on (R67, R221: no source gives it). FREE VALUE (log 5). -/
opaque Config.portByte : Bank → Byte → Byte

/-- The byte on the IV bus in a read that no port drives, the n-th such read of the run (R64, D14, U3). FREE VALUE,
picked by the counter `floats` of the state (log 6). -/
opaque Config.floatingByte : Nat → Byte

end Sys2Proof
end

