-- ==== Sys2Proof/Machine/State.lean ====
section
/-! DEFINITION. Machine/State.lean: everything the machine and its environment keep from one instruction cycle to the
next (spec/10_state.md R20 to R36, spec/20_memory.md R50, R67), as plain data, and the state after RESET (R221). -/

namespace Sys2Proof.Machine

/-- The fifteen 8-bit registers; the sixteenth, R10, is the one bit `State.ovf` (R20 to R22). R0 is AUX; its copy in the
ALU is not separate state (R26). -/
structure Regs where
  r0  : Byte
  r1  : Byte
  r2  : Byte
  r3  : Byte
  r4  : Byte
  r5  : Byte
  r6  : Byte
  r7  : Byte
  r11 : Byte
  r12 : Byte
  r13 : Byte
  r14 : Byte
  r15 : Byte
  r16 : Byte
  r17 : Byte
  deriving DecidableEq, Repr

/-- Bytes by address: exactly the addresses something has been written to, strictly rising (`Memory.wf`). -/
abbrev Memory := List Host.Cell

/-- What a port is to the processor (R58, R64; R191: a write to an input-only port or ROM; R236: a port that cannot be
read back). -/
inductive PortKind where
  | readWrite | readOnly | writeOnly | absent
  deriving DecidableEq, Repr

/-- One bank of the IV bus (R35, R67): the selected port, the bytes the ports hold, and which ports are not plain
readable and writable ones. `kinds` lists the exceptions; it is the system's wiring and no step changes it. -/
structure BankState where
  sel   : Option Byte
  ports : Memory
  kinds : List (Nat × PortKind)
  deriving DecidableEq, Repr

/-- What the chip drives in the output phase: a port address (SC high, R58) or data (WC high, R57). -/
inductive BusOutput where
  | select (bank : Bank) (addr : Byte)
  | write  (bank : Bank) (data : Byte)
  deriving DecidableEq, Repr

/-- The IV-bus activity of one instruction cycle (R60, R67): the bank read in the input phase and the byte the I/O
latches took, the output phase, whether MCLK pulsed in its fourth quarter (R196, R220), and whether the one pulse that
follows the release of RESET came before the cycle (R220, R221; log 27). -/
structure BusCycle where
  input  : Option (Bank × Byte)
  output : Option BusOutput
  mclk   : Bool
  pulseBefore : Bool
  deriving DecidableEq, Repr

/-- The levels of the four bus-control signals in one phase; `true` is high. LB and RB are active low (R60, R62). -/
structure Levels where
  sc : Bool
  wc : Bool
  lb : Bool
  rb : Bool
  deriving DecidableEq, Repr

/-- A port byte that the environment changes by itself (R67: "letting the environment change `port[b][a]`"). -/
structure PortChange where
  bank : Bank
  addr : Byte
  data : Byte
  deriving DecidableEq, Repr

/-- The environment's inputs to one instruction cycle: the pins RESET and HALT (`true`: the pin is low, asserted; D9) and
the ports whose data has changed. -/
structure CycleInput where
  reset : Bool
  halt  : Bool
  ports : List PortChange
  deriving DecidableEq, Repr

/-- The machine. `inputs` holds the inputs of the coming cycles, the next one first; behind its end neither pin is
asserted and no port changes (R195, R220). `pulseDue` says that the last cycle had RESET low, so that a normal MCLK pulse
comes before the next one in which it is high (R220, R221; log 27). `floats` counts the reads nothing drove; it is the
model's own and picks the free byte of the next one (R64; log 6). -/
structure State where
  regs   : Regs
  ovf    : Bool
  pc     : ProgAddr
  ar     : ProgAddr
  prog   : Memory
  left   : BankState
  right  : BankState
  bus    : BusCycle
  pulseDue : Bool
  inputs : List CycleInput
  floats : Nat
  deriving DecidableEq, Repr

/-- Faults: none. No instruction raises an exception and no access can fail (R190, R191), so nobody raises one. Safe:
there is nothing a proof could miss. -/
inductive Fault where
  deriving DecidableEq, Repr

/-- Refusals. -/
inductive Refusal where
  /-- An instruction the model gives no meaning yet; raised by an arm of `exec`. Safe. No arm raises it. -/
  | notModelled (mnemonic : String)
  /-- A word whose destination is R10: the spec defines no next state (R25, R97, D4, U1). Raised by `writeReg`, and so by
  the reserved rows of MOVE, ADD, AND, XOR and XMIT. Safe: nothing is claimed of what the chip would do. -/
  | reservedDestination
  deriving DecidableEq, Repr

/-- Every register the model's value: the spec gives none (R40, R41, R221). DESIGN CHOICE, unsafe (log 1). -/
def Regs.reset : Regs :=
  { r0 := 0, r1 := 0, r2 := 0, r3 := 0, r4 := 0, r5 := 0, r6 := 0, r7 := 0
    r11 := 0, r12 := 0, r13 := 0, r14 := 0, r15 := 0, r16 := 0, r17 := 0 }

/-- No port selected (R67, R222), no port byte written yet, every port readable and writable (the reference environment
of R67; log 8). -/
def BankState.reset : BankState := { sel := none, ports := [], kinds := [] }

/-- The bus while RESET is low: SC, WC low, LB, RB high, MCLK inhibited (R220, R221). -/
def BusCycle.reset : BusCycle := { input := none, output := none, mclk := false, pulseBefore := false }

/-- The machine right after RESET (R221). `pc` and `ar` are the spec's; OVF and the registers are the model's (log 1, log
2); the MCLK pulse before the first instruction is still to come (R221); the program is loaded from outside, none here (log
18). -/
def State.reset : State :=
  { regs := Regs.reset, ovf := false, pc := 0, ar := 0, prog := []
    left := BankState.reset, right := BankState.reset, bus := BusCycle.reset, pulseDue := true
    inputs := [], floats := 0 }

end Sys2Proof.Machine
end

