-- ==== Sys2Proof/Machine/Operands.lean ====
section
/-! DEFINITION. Machine/Operands.lean: the data path's bit functions (spec/00_scope.md R8 to R12), how an IV-bus byte
becomes an operand (spec/30_encoding.md R89), and how a literal becomes an address (spec/10_state.md R30). -/

namespace Sys2Proof.Machine

/-- Right rotation by `n` places, 0 to 7 (R8). -/
def rotr8 (v : Byte) (n : Nat) : Byte := (v >>> n) ||| (v <<< (8 - n))

/-- The length in bits that an L field stands for: 0 is 8 (R9). -/
def fieldLen (l : BitVec 3) : Nat := if l = 0#3 then 8 else l.toNat

/-- A byte with the `fieldLen l` least significant bits set (R9). -/
def lowmask (l : BitVec 3) : Byte := BitVec.ofNat 8 (2 ^ fieldLen l - 1)

/-- The Mask function: the `fieldLen l` least significant bits, zeros above (R10). -/
def maskField (v : Byte) (l : BitVec 3) : Byte := v &&& lowmask l

/-- The left shift on the way to the IV bus: bits leaving the most significant end are lost (R11). -/
def shl8 (v : Byte) (n : Nat) : Byte := v <<< n

/-- How far a field lies from the least significant end: the manual's bit number `pos` is numeric bit 7 - pos (R6). -/
def fieldShift (pos : BitVec 3) : Nat := 7 - pos.toNat

/-- The bits of a byte that the Merge function replaces; what would lie past the most significant bit is cut off (R12,
D19; log 13). -/
def fieldMask (l pos : BitVec 3) : Byte := lowmask l <<< fieldShift pos

/-- The Merge function: `latch` with the field at `pos` replaced by the low bits of `v` (R12). -/
def merge (latch v : Byte) (l pos : BitVec 3) : Byte :=
  (latch &&& ~~~(fieldMask l pos)) ||| (shl8 v (fieldShift pos) &&& fieldMask l pos)

/-- The operand an IV-bus source gives: the port's byte rotated until the manual's bit `pos` is the least significant
one, then masked (R89). -/
def ivOperand (latch : Byte) (pos l : BitVec 3) : Byte := maskField (rotr8 latch (fieldShift pos)) l

/-- A 5-bit literal used as data: upper bits 0 (R92, R173, D20; log 14). -/
def litByte (j : BitVec 5) : Byte := j.setWidth 8

/-- An address in the 256-word page of `pc` (R30, R152, R162). -/
def page8 (pc : ProgAddr) (offset : BitVec 8) : ProgAddr := pc.extractLsb' 8 5 ++ offset

/-- An address in the 32-word page of `pc` (R30, R152, R162). -/
def page5 (pc : ProgAddr) (offset : BitVec 5) : ProgAddr := pc.extractLsb' 5 8 ++ offset

/-- XEC's 8-bit sum of literal and register; the carry is dropped (R150). -/
def xecSum8 (j : BitVec 8) (v : Byte) : BitVec 8 := j + v

/-- XEC's 5-bit sum of literal and IV-bus data; higher bits are dropped, so a field longer than five bits needs no case
of its own (R98, R151, D5; log 12). -/
def xecSum5 (j : BitVec 5) (v : Byte) : BitVec 5 := j + v.setWidth 5

end Sys2Proof.Machine
end

