-- ==== Sys2Proof/Machine/Flags.lean ====
section
/-! DEFINITION. Machine/Flags.lean: the ALU and the one flag, OVF (spec/00_scope.md R13, spec/10_state.md R31). -/

namespace Sys2Proof.Machine

/-- 8-bit binary addition and the carry out of the most significant bit; no carry in (R13). -/
def add8 (a b : Byte) : Byte × Bool := (a + b, decide (255 < a.toNat + b.toNat))

/-- The ALU's result from the source operand `a` and the contents of AUX (R93; MOVE does not use AUX). -/
def aluResult (op : AluOp) (a aux : Byte) : Byte :=
  match op with
  | .move => a
  | .add => (add8 a aux).1
  | .and => a &&& aux
  | .xor => a ^^^ aux

/-- OVF after an instruction of the class: every ADD writes the carry of the full 8-bit sum, nothing else writes it
(R31). -/
def aluOvf (op : AluOp) (a aux : Byte) (old : Bool) : Bool :=
  match op with
  | .add => (add8 a aux).2
  | .move | .and | .xor => old

end Sys2Proof.Machine
end

