-- ==== Sys2Proof/Machine/Ops.lean ====
section
/-! DEFINITION. Machine/Ops.lean: the named operations over memory, registers, program addresses, the IV bus and the
environment's inputs, and the shared shapes of the instructions. There is no taking of an exception and no return from
one here: the machine has neither (spec/60_exceptions.md R190, R192). What the pins RESET and HALT do to a cycle stands
in their place (`resetCycle`, `haltCycle`). -/

namespace Sys2Proof.Machine

/-! ## Memory -/

/-- What an address that nothing has written holds: no byte of its own. The reader of it supplies the free byte of
`Config` (log 5). -/
def Memory.unlisted : Option Byte := none

/-- The byte listed at an address. -/
def Memory.read : Memory → Nat → Option Byte
  | [], _ => Memory.unlisted
  | (k, v) :: m, a => if a = k then some v else Memory.read m a

/-- Memory with one byte written, in rising order of addresses. -/
def Memory.write : Memory → Nat → Byte → Memory
  | [], a, v => [(a, v)]
  | (k, w) :: m, a, v =>
    if a < k then (a, v) :: (k, w) :: m
    else if a = k then (a, v) :: m
    else (k, w) :: Memory.write m a v

/-- Every listed address is at least `lo`, below `hi`, and above the one before it. -/
def Memory.wfFrom (hi : Nat) : Nat → Memory → Bool
  | _, [] => true
  | lo, (k, _) :: m => decide (lo ≤ k) && decide (k < hi) && Memory.wfFrom hi (k + 1) m

/-- The canonical form of a memory of addresses below `hi`: addresses strictly rising. A listed byte is never what an
unlisted address reads as, because that is no byte at all. -/
def Memory.wf (hi : Nat) (m : Memory) : Bool := Memory.wfFrom hi 0 m

/-- How many bytes program storage has: two for each of 8192 words (R50). -/
def progBytes : Nat := 16384

/-- How many ports a bank has (R50). -/
def bankPorts : Nat := 256

/-! ## Registers (spec/10_state.md R22 to R25) -/

/-- A register read (R23). R10 reads as OVF in the least significant bit, zeros above (R22, D3; log 3). -/
def State.readReg (s : State) : Reg → Byte
  | .r0 => s.regs.r0
  | .r1 => s.regs.r1
  | .r2 => s.regs.r2
  | .r3 => s.regs.r3
  | .r4 => s.regs.r4
  | .r5 => s.regs.r5
  | .r6 => s.regs.r6
  | .r7 => s.regs.r7
  | .r10 => (BitVec.ofBool s.ovf).setWidth 8
  | .r11 => s.regs.r11
  | .r12 => s.regs.r12
  | .r13 => s.regs.r13
  | .r14 => s.regs.r14
  | .r15 => s.regs.r15
  | .r16 => s.regs.r16
  | .r17 => s.regs.r17

/-- The register file with one register stored. R10 is not in it: its one bit is OVF, and no instruction stores there
(R25). -/
def Regs.set (g : Regs) (r : Reg) (v : Byte) : Regs :=
  match r with
  | .r0 => { g with r0 := v }
  | .r1 => { g with r1 := v }
  | .r2 => { g with r2 := v }
  | .r3 => { g with r3 := v }
  | .r4 => { g with r4 := v }
  | .r5 => { g with r5 := v }
  | .r6 => { g with r6 := v }
  | .r7 => { g with r7 := v }
  | .r10 => g
  | .r11 => { g with r11 := v }
  | .r12 => { g with r12 := v }
  | .r13 => { g with r13 := v }
  | .r14 => { g with r14 := v }
  | .r15 => { g with r15 := v }
  | .r16 => { g with r16 := v }
  | .r17 => { g with r17 := v }

/-- The store part of a register write. -/
def State.setReg (s : State) (r : Reg) (v : Byte) : State := { s with regs := s.regs.set r v }

/-! ## Program addresses (spec/10_state.md R27 to R30) -/

/-- Both address registers set. -/
def State.setAddrs (s : State) (pc ar : ProgAddr) : State := { s with pc := pc, ar := ar }

/-- `SeqNext()`: PC plus one, cut to 13 bits, into PC and AR (R29; the wrap is D2, log 4). -/
def State.seqNext (s : State) : State := s.setAddrs (s.pc + 1) (s.pc + 1)

/-- Both address registers at an address: JMP and a satisfied NZT (R30). -/
def State.branchTo (s : State) (a : ProgAddr) : State := s.setAddrs a a

/-- The Address Register alone: XEC (R30). -/
def State.executeAt (s : State) (a : ProgAddr) : State := s.setAddrs s.pc a

/-! ## The IV bus (spec/20_memory.md R55 to R64) -/

/-- The state of a bank. -/
def State.bank (s : State) : Bank → BankState
  | .left => s.left
  | .right => s.right

/-- The machine with a bank's state replaced. -/
def State.setBank (s : State) (b : Bank) (k : BankState) : State :=
  match b with
  | .left => { s with left := k }
  | .right => { s with right := k }

/-- The kind of the port at an address: readable and writable where nothing else is listed (R67). -/
def kindOf : List (Nat × PortKind) → Nat → PortKind
  | [], _ => .readWrite
  | (k, p) :: t, a => if a = k then p else kindOf t a

/-- The kind of a port. -/
def State.portKind (s : State) (b : Bank) (a : Byte) : PortKind := kindOf (s.bank b).kinds a.toNat

/-- A selected port of this kind drives the bus in a read. -/
def PortKind.readable : PortKind → Bool
  | .readWrite | .readOnly => true
  | .writeOnly | .absent => false

/-- A selected port of this kind takes the byte of a write (R57); one that is only read ignores it (R191). -/
def PortKind.writable : PortKind → Bool
  | .readWrite | .writeOnly => true
  | .readOnly | .absent => false

/-- The byte a port holds: the one last written to it, or else the free byte it has held since power-on (log 5). -/
def State.portByte (s : State) (b : Bank) (a : Byte) : Byte :=
  ((s.bank b).ports.read a.toNat).getD (Config.portByte b a)

/-- A port's byte set, by the chip or by the environment. -/
def State.setPort (s : State) (b : Bank) (a v : Byte) : State :=
  s.setBank b { s.bank b with ports := (s.bank b).ports.write a.toNat v }

/-- The byte that the selected port of a bank drives on the bus in a read, if one does (R56, R64). -/
def State.driven (s : State) (b : Bank) : Option Byte :=
  match (s.bank b).sel with
  | none => none
  | some a => if (s.portKind b a).readable then some (s.portByte b a) else none

/-- The byte an input-phase read of a bank takes: the driven one, or a free byte where nothing drives the bus (R56, R64,
D14; log 6). -/
def State.latchByte (s : State) (b : Bank) : Byte := (s.driven b).getD (Config.floatingByte s.floats)

/-- A cycle with RESET high begins, with this input phase: MCLK will pulse in it (R196); if RESET has just been released, a
normal MCLK pulse came before it (R220, R221; log 27). -/
def State.beginCycle (s : State) (input : Option (Bank × Byte)) : State :=
  { s with
    bus := { input := input, output := none, mclk := true, pulseBefore := s.pulseDue }
    pulseDue := false }

/-- A cycle without an input-phase read: the bus is released in it (R60, R63). -/
def State.noRead (s : State) : State := s.beginCycle none

/-- `IVRead(b)`, the state after it: the latch has taken `latchByte`, selection and ports are as they were (R56), and a
free byte, if one was taken, is used up. -/
def State.ivRead (s : State) (b : Bank) : State :=
  { s.beginCycle (some (b, s.latchByte b)) with
    floats := match s.driven b with
      | some _ => s.floats
      | none => s.floats + 1 }

/-- The output phase of the cycle. -/
def State.drive (s : State) (o : BusOutput) : State := { s with bus := { s.bus with output := some o } }

/-- The port that takes a byte written to a bank: the selected one, if it takes data; none where none is selected (R57,
R64, R191). -/
def State.writeTarget (s : State) (b : Bank) : Option Byte :=
  match (s.bank b).sel with
  | none => none
  | some a => if (s.portKind b a).writable then some a else none

/-- What a byte written to a bank does to its ports (R57, R64). -/
def State.portTakes (s : State) (b : Bank) (v : Byte) : State :=
  match s.writeTarget b with
  | none => s
  | some a => s.setPort b a v

/-- `IVWrite(b, v)`: the byte is driven and the selected port of the bank takes it (R57). -/
def State.ivWrite (s : State) (b : Bank) (v : Byte) : State := (s.portTakes b v).drive (.write b v)

/-- Which port an address selects on a bank: the port with that address, or none where there is none (R58). -/
def State.selected (s : State) (b : Bank) (a : Byte) : Option Byte :=
  if s.portKind b a = .absent then none else some a

/-- `IVSelect(b, a)`: the address is driven; the port with that address becomes the bank's selected port and every other
one of the bank is deselected (R58). -/
def State.ivSelect (s : State) (b : Bank) (a : Byte) : State :=
  (s.setBank b { s.bank b with sel := s.selected b a }).drive (.select b a)

/-- The levels of SC, WC, LB, RB in the input phase (R56, R60). -/
def BusCycle.inputLevels (c : BusCycle) : Levels :=
  match c.input with
  | none => { sc := false, wc := false, lb := true, rb := true }
  | some (b, _) => { sc := false, wc := false, lb := decide (b ≠ .left), rb := decide (b ≠ .right) }

/-- The levels of SC, WC, LB, RB in the output phase (R57, R58, R60). -/
def BusCycle.outputLevels (c : BusCycle) : Levels :=
  match c.output with
  | none => { sc := false, wc := false, lb := true, rb := true }
  | some (.select b _) => { sc := true, wc := false, lb := decide (b ≠ .left), rb := decide (b ≠ .right) }
  | some (.write b _) => { sc := false, wc := true, lb := decide (b ≠ .left), rb := decide (b ≠ .right) }

/-! ## Register writes -/

/-- `x[i] <- v` (R24): a store; for R7 and R17 also an address select on their bank; R10 is not permitted (R25). -/
def writeReg (r : Reg) (v : Byte) (s : State) : Host.Outcome State Fault Refusal :=
  match r with
  | .r7 => .next ((s.setReg .r7 v).ivSelect .left v)
  | .r17 => .next ((s.setReg .r17 v).ivSelect .right v)
  | .r10 => .refused .reservedDestination
  | .r0 => .next (s.setReg .r0 v)
  | .r1 => .next (s.setReg .r1 v)
  | .r2 => .next (s.setReg .r2 v)
  | .r3 => .next (s.setReg .r3 v)
  | .r4 => .next (s.setReg .r4 v)
  | .r5 => .next (s.setReg .r5 v)
  | .r6 => .next (s.setReg .r6 v)
  | .r11 => .next (s.setReg .r11 v)
  | .r12 => .next (s.setReg .r12 v)
  | .r13 => .next (s.setReg .r13 v)
  | .r14 => .next (s.setReg .r14 v)
  | .r15 => .next (s.setReg .r15 v)
  | .r16 => .next (s.setReg .r16 v)

/-- What follows an operation that answers a next state. -/
def onNext (o : Host.Outcome State Fault Refusal) (f : State → State) : Host.Outcome State Fault Refusal :=
  match o with
  | .next s => .next (f s)
  | .fault r => .fault r
  | .refused r => .refused r

/-! ## The shapes of the instructions (spec/30_encoding.md R89, R90)

Each reads everything before it writes anything (spec/10_state.md R37). -/

/-- OVF set. -/
def State.setOvf (s : State) (o : Bool) : State := { s with ovf := o }

/-- The ALU's part in a state: OVF as the class says (R31). -/
def State.aluFlags (s : State) (op : AluOp) (a : Byte) : State := s.setOvf (aluOvf op a s.regs.r0 s.ovf)

/-- From the source operand to a register destination: OVF, the register, the next address (R90). -/
def finishReg (op : AluOp) (a : Byte) (dst : Reg) (s : State) : Host.Outcome State Fault Refusal :=
  onNext (writeReg dst (aluResult op a s.regs.r0) (s.aluFlags op a)) State.seqNext

/-- From the source operand to an IV-bus destination: OVF, the byte with the field merged in, the next address (R61,
R90). -/
def finishIv (op : AluOp) (a latch : Byte) (len : BitVec 3) (dst : IvField) (s : State) :
    Host.Outcome State Fault Refusal :=
  .next ((s.aluFlags op a).ivWrite dst.bank (merge latch (aluResult op a s.regs.r0) len dst.pos)).seqNext

/-- Register, Register and Register, IV Bus Address: the register rotated; no bus read (R89, R110, R111). -/
def regToReg (op : AluOp) (src : Reg) (rot : BitVec 3) (dst : Reg) (s : State) : Host.Outcome State Fault Refusal :=
  finishReg op (rotr8 (s.readReg src) rot.toNat) dst s.noRead

/-- Register, IV Bus: the register neither rotated nor masked; the read is of the destination's port (R61, R89, R112;
D21, log 15). -/
def regToIv (op : AluOp) (src : Reg) (len : BitVec 3) (dst : IvField) (s : State) :
    Host.Outcome State Fault Refusal :=
  finishIv op (s.readReg src) (s.latchByte dst.bank) len dst (s.ivRead dst.bank)

/-- IV Bus, Register and IV Bus, IV Bus Address: the field of the source's port (R89, R113, R115). -/
def ivToReg (op : AluOp) (src : IvField) (len : BitVec 3) (dst : Reg) (s : State) : Host.Outcome State Fault Refusal :=
  finishReg op (ivOperand (s.latchByte src.bank) src.pos len) dst (s.ivRead src.bank)

/-- IV Bus, IV Bus: the one read is of the source's port, and the field is merged into its byte, also where the
destination is on the other bank (R61, R114; D13, log 11). -/
def ivToIv (op : AluOp) (src : IvField) (len : BitVec 3) (dst : IvField) (s : State) :
    Host.Outcome State Fault Refusal :=
  finishIv op (ivOperand (s.latchByte src.bank) src.pos len) (s.latchByte src.bank) len dst (s.ivRead src.bank)

/-- A satisfied NZT goes to `target`, another goes on in sequence (R160, R161). -/
def State.nonzeroTo (s : State) (v : Byte) (target : ProgAddr) : State :=
  if v = 0 then s.seqNext else s.branchTo target

/-! ## Fetch (spec/10_state.md R28, spec/20_memory.md R51) -/

/-- A byte of program storage: the one loaded there, or else a free byte (R53; log 5). -/
def State.progByte (s : State) (n : Nat) : Byte := (s.prog.read n).getD (Config.progByte n)

/-- `MemRead(a, 1)`: word a, its more significant byte at 2a (R51, R68; log 17). -/
def State.progWord (s : State) (a : ProgAddr) : Word := s.progByte (2 * a.toNat) ++ s.progByte (2 * a.toNat + 1)

/-- The word of the instruction of this cycle: the one AR addresses (R28). -/
def State.fetchWord (s : State) : Word := s.progWord s.ar

/-- A word loaded into program storage from outside (R53, R75). -/
def State.loadWord (s : State) (a : ProgAddr) (w : Word) : State :=
  { s with prog := (s.prog.write (2 * a.toNat) (w.extractLsb' 8 8)).write (2 * a.toNat + 1) (w.extractLsb' 0 8) }

/-! ## The environment's inputs (spec/10_state.md R37, spec/20_memory.md R67) -/

/-- Neither pin asserted, no port changed: the default of R195 and R220 (D9; log 9). -/
def CycleInput.quiet : CycleInput := { reset := false, halt := false, ports := [] }

/-- The inputs of this cycle. -/
def State.cycleInput (s : State) : CycleInput :=
  match s.inputs with
  | [] => CycleInput.quiet
  | c :: _ => c

/-- The ports as the environment has changed them (R67, R73). -/
def State.applyChanges (s : State) : List PortChange → State
  | [] => s
  | c :: cs => (s.setPort c.bank c.addr c.data).applyChanges cs

/-- The inputs of this cycle taken: its port changes made, the next cycle's inputs in front. -/
def State.takeInput (s : State) : State := { s.applyChanges s.cycleInput.ports with inputs := s.inputs.tail }

/-- Whether RESET is low in this cycle. -/
def State.resetLow (s : State) : Bool := s.cycleInput.reset

/-- Whether HALT is low when sampled in this cycle. -/
def State.haltLow (s : State) : Bool := s.cycleInput.halt

/-- A cycle with RESET low: PC and AR are zero, no register changes, no IV-bus operation, MCLK inhibited, and one MCLK
pulse due before operation resumes (R41, R220). -/
def resetCycle (s : State) : State := { s with pc := 0, ar := 0, bus := BusCycle.reset, pulseDue := true }

/-- A halted cycle: nothing changes, no IV-bus operation, MCLK still pulses (R196, R197). -/
def haltCycle (s : State) : State := s.noRead

/-- The inputs with both pins released in the coming cycle. -/
def releasePins : List CycleInput → List CycleInput
  | [] => []
  | c :: cs => { c with reset := false, halt := false } :: cs

end Sys2Proof.Machine
end

