-- ==== Sys2Proof/Machine/Add.lean ====
section
/-! DEFINITION. Machine/Add.lean: the ADD class (spec/41_add.md): adds AUX to the operand and writes the carry to OVF. Each meaning is a shape of
Machine/Ops.lean at the class `AluOp.add`. -/

namespace Sys2Proof.Machine

/-- ADD-Register, Register (R120). -/
def execAddRegReg (src : Reg) (rot : BitVec 3) (dst : Reg) (s : State) : Host.Outcome State Fault Refusal :=
  regToReg .add src rot dst s

/-- ADD-Register, IV Bus Address (R121): the destination is R7 (Left) or R17 (Right), whose write also selects a port (R24). -/
def execAddRegAddr (src : Reg) (rot : BitVec 3) (bank : Bank) (s : State) : Host.Outcome State Fault Refusal :=
  regToReg .add src rot bank.addrReg s

/-- ADD-Register, IV Bus (R122). -/
def execAddRegIv (src : Reg) (len : BitVec 3) (dst : IvField) (s : State) : Host.Outcome State Fault Refusal :=
  regToIv .add src len dst s

/-- ADD-IV Bus, Register (R123). -/
def execAddIvReg (src : IvField) (len : BitVec 3) (dst : Reg) (s : State) : Host.Outcome State Fault Refusal :=
  ivToReg .add src len dst s

/-- ADD-IV Bus, IV Bus (R124). -/
def execAddIvIv (src : IvField) (len : BitVec 3) (dst : IvField) (s : State) : Host.Outcome State Fault Refusal :=
  ivToIv .add src len dst s

/-- ADD-IV Bus, IV Bus Address (R125): the read uses the selection in force before the new one. -/
def execAddIvAddr (src : IvField) (len : BitVec 3) (bank : Bank) (s : State) : Host.Outcome State Fault Refusal :=
  ivToReg .add src len bank.addrReg s

/-- ADD with destination R10: reserved, no next state (R97, D4; log 7). -/
def execAddReserved (_src : BitVec 5) (_rl : BitVec 3) (_s : State) : Host.Outcome State Fault Refusal :=
  .refused .reservedDestination

end Sys2Proof.Machine
end

