-- ==== Sys2Proof/Machine/And.lean ====
section
/-! DEFINITION. Machine/And.lean: the AND class (spec/42_and.md): takes the AND of the operand and AUX; OVF is not written. Each meaning is a shape of
Machine/Ops.lean at the class `AluOp.and`. -/

namespace Sys2Proof.Machine

/-- AND-Register, Register (R130). -/
def execAndRegReg (src : Reg) (rot : BitVec 3) (dst : Reg) (s : State) : Host.Outcome State Fault Refusal :=
  regToReg .and src rot dst s

/-- AND-Register, IV Bus Address (R131): the destination is R7 (Left) or R17 (Right), whose write also selects a port (R24). -/
def execAndRegAddr (src : Reg) (rot : BitVec 3) (bank : Bank) (s : State) : Host.Outcome State Fault Refusal :=
  regToReg .and src rot bank.addrReg s

/-- AND-Register, IV Bus (R132). -/
def execAndRegIv (src : Reg) (len : BitVec 3) (dst : IvField) (s : State) : Host.Outcome State Fault Refusal :=
  regToIv .and src len dst s

/-- AND-IV Bus, Register (R133). -/
def execAndIvReg (src : IvField) (len : BitVec 3) (dst : Reg) (s : State) : Host.Outcome State Fault Refusal :=
  ivToReg .and src len dst s

/-- AND-IV Bus, IV Bus (R134). -/
def execAndIvIv (src : IvField) (len : BitVec 3) (dst : IvField) (s : State) : Host.Outcome State Fault Refusal :=
  ivToIv .and src len dst s

/-- AND-IV Bus, IV Bus Address (R135): the read uses the selection in force before the new one. -/
def execAndIvAddr (src : IvField) (len : BitVec 3) (bank : Bank) (s : State) : Host.Outcome State Fault Refusal :=
  ivToReg .and src len bank.addrReg s

/-- AND with destination R10: reserved, no next state (R97, D4; log 7). -/
def execAndReserved (_src : BitVec 5) (_rl : BitVec 3) (_s : State) : Host.Outcome State Fault Refusal :=
  .refused .reservedDestination

end Sys2Proof.Machine
end

