-- ==== Sys2Proof/Machine/Jmp.lean ====
section
/-! DEFINITION. Machine/Jmp.lean: the JMP class (spec/47_jmp.md). -/

namespace Sys2Proof.Machine

/-- JMP-Address (R180): both address registers take the address; no return address is kept. -/
def execJmp (addr : ProgAddr) (s : State) : Host.Outcome State Fault Refusal :=
  .next (s.noRead.branchTo addr)

end Sys2Proof.Machine
end

