-- ==== Sys2Proof/Machine/Move.lean ====
section
/-! DEFINITION. Machine/Move.lean: the MOVE class (spec/40_move.md): moves the operand; AUX and OVF are not used. Each meaning is a shape of
Machine/Ops.lean at the class `AluOp.move`. -/

namespace Sys2Proof.Machine

/-- MOVE-Register, Register (R110). -/
def execMoveRegReg (src : Reg) (rot : BitVec 3) (dst : Reg) (s : State) : Host.Outcome State Fault Refusal :=
  regToReg .move src rot dst s

/-- MOVE-Register, IV Bus Address (R111): the destination is R7 (Left) or R17 (Right), whose write also selects a port (R24). -/
def execMoveRegAddr (src : Reg) (rot : BitVec 3) (bank : Bank) (s : State) : Host.Outcome State Fault Refusal :=
  regToReg .move src rot bank.addrReg s

/-- MOVE-Register, IV Bus (R112). -/
def execMoveRegIv (src : Reg) (len : BitVec 3) (dst : IvField) (s : State) : Host.Outcome State Fault Refusal :=
  regToIv .move src len dst s

/-- MOVE-IV Bus, Register (R113). -/
def execMoveIvReg (src : IvField) (len : BitVec 3) (dst : Reg) (s : State) : Host.Outcome State Fault Refusal :=
  ivToReg .move src len dst s

/-- MOVE-IV Bus, IV Bus (R114). -/
def execMoveIvIv (src : IvField) (len : BitVec 3) (dst : IvField) (s : State) : Host.Outcome State Fault Refusal :=
  ivToIv .move src len dst s

/-- MOVE-IV Bus, IV Bus Address (R115): the read uses the selection in force before the new one. -/
def execMoveIvAddr (src : IvField) (len : BitVec 3) (bank : Bank) (s : State) : Host.Outcome State Fault Refusal :=
  ivToReg .move src len bank.addrReg s

/-- MOVE with destination R10: reserved, no next state (R97, D4; log 7). -/
def execMoveReserved (_src : BitVec 5) (_rl : BitVec 3) (_s : State) : Host.Outcome State Fault Refusal :=
  .refused .reservedDestination

end Sys2Proof.Machine
end

