-- ==== Sys2Proof/Machine/Nzt.lean ====
section
/-! DEFINITION. Machine/Nzt.lean: the NZT class (spec/45_nzt.md). The page of a branch is that of PC, which for the
target of an XEC is the XEC's (R162). -/

namespace Sys2Proof.Machine

/-- NZT-Register (R160). -/
def execNztReg (src : Reg) (lit : BitVec 8) (s : State) : Host.Outcome State Fault Refusal :=
  .next (s.noRead.nonzeroTo (s.readReg src) (page8 s.pc lit))

/-- NZT-IV Bus (R161). -/
def execNztIv (src : IvField) (len : BitVec 3) (lit : BitVec 5) (s : State) : Host.Outcome State Fault Refusal :=
  .next ((s.ivRead src.bank).nonzeroTo (ivOperand (s.latchByte src.bank) src.pos len) (page5 s.pc lit))

end Sys2Proof.Machine
end

