-- ==== Sys2Proof/Machine/Xec.lean ====
section
/-! DEFINITION. Machine/Xec.lean: the XEC class (spec/44_xec.md). An XEC changes AR only, so its target runs in the next
cycle with the PC the XEC left (R153). -/

namespace Sys2Proof.Machine

/-- XEC-Register (R150): AR in the 256-word page of PC at the 8-bit sum of literal and register. -/
def execXecReg (src : Reg) (lit : BitVec 8) (s : State) : Host.Outcome State Fault Refusal :=
  .next (s.noRead.executeAt (page8 s.pc (xecSum8 lit (s.readReg src))))

/-- XEC-IV Bus (R151): AR in the 32-word page of PC at the 5-bit sum of literal and field. -/
def execXecIv (src : IvField) (len : BitVec 3) (lit : BitVec 5) (s : State) : Host.Outcome State Fault Refusal :=
  .next ((s.ivRead src.bank).executeAt (page5 s.pc (xecSum5 lit (ivOperand (s.latchByte src.bank) src.pos len))))

end Sys2Proof.Machine
end

