-- ==== Sys2Proof/Machine/Xmit.lean ====
section
/-! DEFINITION. Machine/Xmit.lean: the XMIT class (spec/46_xmit.md). -/

namespace Sys2Proof.Machine

/-- XMIT-Register (R170). -/
def execXmitReg (dst : Reg) (lit : BitVec 8) (s : State) : Host.Outcome State Fault Refusal :=
  onNext (writeReg dst lit s.noRead) State.seqNext

/-- XMIT-IV Bus Address (R171). -/
def execXmitAddr (bank : Bank) (lit : BitVec 8) (s : State) : Host.Outcome State Fault Refusal :=
  onNext (writeReg bank.addrReg lit s.noRead) State.seqNext

/-- XMIT-Register, IV Bus (R172): the whole byte to the bank's selected port, not read first; R12 and R13 only name the
bank and keep their contents. -/
def execXmitIv8 (bank : Bank) (lit : BitVec 8) (s : State) : Host.Outcome State Fault Refusal :=
  .next (s.noRead.ivWrite bank lit).seqNext

/-- XMIT-IV Bus (R173): the 5-bit literal, upper bits 0, merged into the destination port's byte. -/
def execXmitIv (dst : IvField) (len : BitVec 3) (lit : BitVec 5) (s : State) : Host.Outcome State Fault Refusal :=
  .next ((s.ivRead dst.bank).ivWrite dst.bank (merge (s.latchByte dst.bank) (litByte lit) len dst.pos)).seqNext

/-- XMIT with destination R10: reserved, no next state (R97, D4; log 7). -/
def execXmitReserved (_lit : BitVec 8) (_s : State) : Host.Outcome State Fault Refusal :=
  .refused .reservedDestination

end Sys2Proof.Machine
end

