-- ==== Sys2Proof/Machine/Xor.lean ====
section
/-! DEFINITION. Machine/Xor.lean: the XOR class (spec/43_xor.md): takes the exclusive OR of the operand and AUX; OVF is not written. Each meaning is a shape of
Machine/Ops.lean at the class `AluOp.xor`. -/

namespace Sys2Proof.Machine

/-- XOR-Register, Register (R140). -/
def execXorRegReg (src : Reg) (rot : BitVec 3) (dst : Reg) (s : State) : Host.Outcome State Fault Refusal :=
  regToReg .xor src rot dst s

/-- XOR-Register, IV Bus Address (R141): the destination is R7 (Left) or R17 (Right), whose write also selects a port (R24). -/
def execXorRegAddr (src : Reg) (rot : BitVec 3) (bank : Bank) (s : State) : Host.Outcome State Fault Refusal :=
  regToReg .xor src rot bank.addrReg s

/-- XOR-Register, IV Bus (R142). -/
def execXorRegIv (src : Reg) (len : BitVec 3) (dst : IvField) (s : State) : Host.Outcome State Fault Refusal :=
  regToIv .xor src len dst s

/-- XOR-IV Bus, Register (R143). -/
def execXorIvReg (src : IvField) (len : BitVec 3) (dst : Reg) (s : State) : Host.Outcome State Fault Refusal :=
  ivToReg .xor src len dst s

/-- XOR-IV Bus, IV Bus (R144). -/
def execXorIvIv (src : IvField) (len : BitVec 3) (dst : IvField) (s : State) : Host.Outcome State Fault Refusal :=
  ivToIv .xor src len dst s

/-- XOR-IV Bus, IV Bus Address (R145): the read uses the selection in force before the new one. -/
def execXorIvAddr (src : IvField) (len : BitVec 3) (bank : Bank) (s : State) : Host.Outcome State Fault Refusal :=
  ivToReg .xor src len bank.addrReg s

/-- XOR with destination R10: reserved, no next state (R97, D4; log 7). -/
def execXorReserved (_src : BitVec 5) (_rl : BitVec 3) (_s : State) : Host.Outcome State Fault Refusal :=
  .refused .reservedDestination

end Sys2Proof.Machine
end

