-- ==== Sys2Proof/Machine/Dispatch.lean ====
section
/-! DEFINITION. Machine/Dispatch.lean: one arm for each constructor of `Instr`, each a call of its meaning. -/

namespace Sys2Proof.Machine

def exec (i : Instr) (s : State) : Host.Outcome State Fault Refusal :=
  match i with
  | .moveRegReg src rot dst => Sys2Proof.Machine.execMoveRegReg src rot dst s
  | .moveRegAddr src rot bank => Sys2Proof.Machine.execMoveRegAddr src rot bank s
  | .moveRegIv src len dst => Sys2Proof.Machine.execMoveRegIv src len dst s
  | .moveIvReg src len dst => Sys2Proof.Machine.execMoveIvReg src len dst s
  | .moveIvIv src len dst => Sys2Proof.Machine.execMoveIvIv src len dst s
  | .moveIvAddr src len bank => Sys2Proof.Machine.execMoveIvAddr src len bank s
  | .moveReserved src rl => Sys2Proof.Machine.execMoveReserved src rl s
  | .addRegReg src rot dst => Sys2Proof.Machine.execAddRegReg src rot dst s
  | .addRegAddr src rot bank => Sys2Proof.Machine.execAddRegAddr src rot bank s
  | .addRegIv src len dst => Sys2Proof.Machine.execAddRegIv src len dst s
  | .addIvReg src len dst => Sys2Proof.Machine.execAddIvReg src len dst s
  | .addIvIv src len dst => Sys2Proof.Machine.execAddIvIv src len dst s
  | .addIvAddr src len bank => Sys2Proof.Machine.execAddIvAddr src len bank s
  | .addReserved src rl => Sys2Proof.Machine.execAddReserved src rl s
  | .andRegReg src rot dst => Sys2Proof.Machine.execAndRegReg src rot dst s
  | .andRegAddr src rot bank => Sys2Proof.Machine.execAndRegAddr src rot bank s
  | .andRegIv src len dst => Sys2Proof.Machine.execAndRegIv src len dst s
  | .andIvReg src len dst => Sys2Proof.Machine.execAndIvReg src len dst s
  | .andIvIv src len dst => Sys2Proof.Machine.execAndIvIv src len dst s
  | .andIvAddr src len bank => Sys2Proof.Machine.execAndIvAddr src len bank s
  | .andReserved src rl => Sys2Proof.Machine.execAndReserved src rl s
  | .xorRegReg src rot dst => Sys2Proof.Machine.execXorRegReg src rot dst s
  | .xorRegAddr src rot bank => Sys2Proof.Machine.execXorRegAddr src rot bank s
  | .xorRegIv src len dst => Sys2Proof.Machine.execXorRegIv src len dst s
  | .xorIvReg src len dst => Sys2Proof.Machine.execXorIvReg src len dst s
  | .xorIvIv src len dst => Sys2Proof.Machine.execXorIvIv src len dst s
  | .xorIvAddr src len bank => Sys2Proof.Machine.execXorIvAddr src len bank s
  | .xorReserved src rl => Sys2Proof.Machine.execXorReserved src rl s
  | .xecReg src lit => Sys2Proof.Machine.execXecReg src lit s
  | .xecIv src len lit => Sys2Proof.Machine.execXecIv src len lit s
  | .nztReg src lit => Sys2Proof.Machine.execNztReg src lit s
  | .nztIv src len lit => Sys2Proof.Machine.execNztIv src len lit s
  | .xmitReg dst lit => Sys2Proof.Machine.execXmitReg dst lit s
  | .xmitAddr bank lit => Sys2Proof.Machine.execXmitAddr bank lit s
  | .xmitIv8 bank lit => Sys2Proof.Machine.execXmitIv8 bank lit s
  | .xmitIv dst len lit => Sys2Proof.Machine.execXmitIv dst len lit s
  | .xmitReserved lit => Sys2Proof.Machine.execXmitReserved lit s
  | .jmp addr => Sys2Proof.Machine.execJmp addr s

end Sys2Proof.Machine
end

