-- ==== Sys2Proof/Machine/Step.lean ====
section
/-! DEFINITION. Machine/Step.lean: one instruction cycle (spec/10_state.md R37). -/

namespace Sys2Proof.Machine

/-- One cycle (R37): the environment's port changes, then RESET before HALT (R192, R200), then the instruction whose word
AR addresses. -/
def step (s : State) : Host.Outcome State Fault Refusal :=
  if s.resetLow then .next (resetCycle s.takeInput)
  else if s.haltLow then .next (haltCycle s.takeInput)
  else exec (decodeWord s.takeInput.fetchWord) s.takeInput

/-- The machine with the word `w` of `nbits` bits loaded where the next step fetches, and both pins released in that step,
so that it runs (log 18). -/
def State.withFetchWord (s : State) (nbits w : Nat) : State :=
  { s.loadWord s.ar (BitVec.ofNat 16 (w % 2 ^ nbits)) with inputs := releasePins s.inputs }

end Sys2Proof.Machine
end

