-- ==== Sys2Proof/Safety.lean ====
section
/-! DEFINITION. Safety.lean: the terms claims use: what every state a run reaches has, what an instruction leaves
unchanged, how an instruction completes, and what the spec's tables say of each form without running it. -/

namespace Sys2Proof.Machine

/-! ## What every step keeps -/

/-- Every memory is in canonical form and lists only addresses that exist (spec/20_memory.md R50). -/
def State.memWf (s : State) : Bool :=
  s.prog.wf progBytes && s.left.ports.wf bankPorts && s.right.ports.wf bankPorts

/-- No bank has a port selected that does not exist (R58). -/
def State.selWf (s : State) : Prop :=
  ∀ b a, (s.bank b).sel = some a → s.portKind b a ≠ .absent

/-- AR is in the 256-word page of PC: they differ only between an XEC and its target (spec/10_state.md R30,
spec/44_xec.md R152). -/
def State.samePage (s : State) : Prop := s.ar.toNat / 256 = s.pc.toNat / 256

/-- An MCLK pulse is due exactly after a cycle in which MCLK was inhibited (spec/70_reset_and_hazards.md R220). -/
def State.pulseMatches (s : State) : Prop := s.pulseDue = !s.bus.mclk

/-- What every step keeps. -/
structure State.Inv (s : State) : Prop where
  mem  : s.memWf = true
  sel  : s.selWf
  page : s.samePage
  pulse : s.pulseMatches

/-- Neither pin is asserted in the coming cycle, so that an instruction runs (R37). -/
def State.runs (s : State) : Prop := s.resetLow = false ∧ s.haltLow = false

/-! ## Frames: `s` before, `t` after -/

/-- Nothing outside the chip has changed: every byte of program storage and of the ports, the selections, the wiring, the
inputs still to come. -/
structure State.OutsideSame (s t : State) : Prop where
  prog   : ∀ n, t.progByte n = s.progByte n
  port   : ∀ b a, t.portByte b a = s.portByte b a
  sel    : ∀ b, (t.bank b).sel = (s.bank b).sel
  kinds  : ∀ b, (t.bank b).kinds = (s.bank b).kinds
  inputs : t.inputs = s.inputs

/-- Outside the chip one thing has changed: the port that takes a byte written to bank `b` (`writeTarget`) holds `v`. Where
no port takes it, nothing has changed. -/
structure State.PortWritten (s t : State) (b : Bank) (v : Byte) : Prop where
  stored : ∀ a, s.writeTarget b = some a → t.portByte b a = v
  others : ∀ b' a', ¬(b' = b ∧ s.writeTarget b = some a') → t.portByte b' a' = s.portByte b' a'
  prog   : ∀ n, t.progByte n = s.progByte n
  sel    : ∀ b', (t.bank b').sel = (s.bank b').sel
  kinds  : ∀ b', (t.bank b').kinds = (s.bank b').kinds
  inputs : t.inputs = s.inputs

/-- Outside the chip one thing has changed: bank `b` has the port selected that address `a` selects (`selected`). -/
structure State.PortSelected (s t : State) (b : Bank) (a : Byte) : Prop where
  sel    : (t.bank b).sel = s.selected b a
  other  : ∀ b', b' ≠ b → (t.bank b').sel = (s.bank b').sel
  prog   : ∀ n, t.progByte n = s.progByte n
  port   : ∀ b' a', t.portByte b' a' = s.portByte b' a'
  kinds  : ∀ b', (t.bank b').kinds = (s.bank b').kinds
  inputs : t.inputs = s.inputs

/-- The registers after a write of `dst`: it reads as `v`, every other one as before; OVF, the one bit of R10, is `ovf`; PC
and AR are those of `SeqNext()`. -/
structure State.RegWritten (s t : State) (dst : Reg) (v : Byte) (ovf : Bool) : Prop where
  value  : t.readReg dst = v
  others : ∀ r : Reg, r ≠ dst → r ≠ .r10 → t.readReg r = s.readReg r
  ovf    : t.ovf = ovf
  pc     : t.pc = s.seqNext.pc
  ar     : t.ar = s.seqNext.ar

/-- Every register reads as before but for OVF, the one bit of R10, which is `ovf`. -/
structure State.RegsKept (s t : State) (ovf : Bool) : Prop where
  regs : ∀ r : Reg, r ≠ .r10 → t.readReg r = s.readReg r
  ovf  : t.ovf = ovf

/-- The bus in the cycle: a read of bank `inB` if there is one, which took the byte `latchByte`; the output phase; MCLK. (What
becomes of the pulse due after RESET is said once for all instructions, in the statement BusTable.) No free byte is used
up where every read bank is driven. -/
structure State.BusWas (s t : State) (inB : Option Bank) (out : Option BusOutput) : Prop where
  input  : t.bus.input = inB.map fun b => (b, s.latchByte b)
  output : t.bus.output = out
  mclk   : t.bus.mclk = true
  floats : (∀ b, inB = some b → s.driven b ≠ none) → t.floats = s.floats

/-! ## How an instruction completes -/

/-- `i` completes: `v` in register `dst`, OVF `ovf`, nothing outside changed, one bus read at most (of `inB`), the next
address in sequence. -/
def CompletesToReg (i : Instr) (s : State) (dst : Reg) (v : Byte) (ovf : Bool) (inB : Option Bank) : Prop :=
  ∃ t, exec i s = .next t ∧ s.RegWritten t dst v ovf ∧ s.OutsideSame t ∧ s.BusWas t inB none

/-- `i` completes: `v` in the address register of `bank` and sent to that bank as a port address. -/
def CompletesToAddr (i : Instr) (s : State) (bank : Bank) (v : Byte) (ovf : Bool) (inB : Option Bank) : Prop :=
  ∃ t, exec i s = .next t ∧ s.RegWritten t bank.addrReg v ovf ∧ s.PortSelected t bank v ∧
    s.BusWas t inB (some (.select bank v))

/-- `i` completes: the byte `v` written to the selected port of `bank`, no register changed but OVF. -/
def CompletesToPort (i : Instr) (s : State) (bank : Bank) (v : Byte) (ovf : Bool) (inB : Option Bank) : Prop :=
  ∃ t, exec i s = .next t ∧ s.RegsKept t ovf ∧ t.pc = s.seqNext.pc ∧ t.ar = s.seqNext.ar ∧
    s.PortWritten t bank v ∧ s.BusWas t inB (some (.write bank v))

/-- `i` completes: PC and AR as given, no register, flag or port changed. -/
def CompletesAt (i : Instr) (s : State) (pc ar : Nat) (inB : Option Bank) : Prop :=
  ∃ t, exec i s = .next t ∧ t.pc.toNat = pc ∧ t.ar.toNat = ar ∧ s.RegsKept t s.ovf ∧ s.OutsideSame t ∧
    s.BusWas t inB none

/-! ## What the spec's tables say of a form -/

/-- The classes that go on in sequence whatever their data: MOVE, ADD, AND, XOR, XMIT (R30). -/
def sequential : Instr → Bool
  | .xecReg _ _ | .xecIv _ _ _ | .nztReg _ _ | .nztIv _ _ _ | .jmp _ => false
  | .moveRegReg _ _ _ | .moveRegAddr _ _ _ | .moveRegIv _ _ _ | .moveIvReg _ _ _ | .moveIvIv _ _ _
  | .moveIvAddr _ _ _ | .moveReserved _ _ => true
  | .addRegReg _ _ _ | .addRegAddr _ _ _ | .addRegIv _ _ _ | .addIvReg _ _ _ | .addIvIv _ _ _
  | .addIvAddr _ _ _ | .addReserved _ _ => true
  | .andRegReg _ _ _ | .andRegAddr _ _ _ | .andRegIv _ _ _ | .andIvReg _ _ _ | .andIvIv _ _ _
  | .andIvAddr _ _ _ | .andReserved _ _ => true
  | .xorRegReg _ _ _ | .xorRegAddr _ _ _ | .xorRegIv _ _ _ | .xorIvReg _ _ _ | .xorIvIv _ _ _
  | .xorIvAddr _ _ _ | .xorReserved _ _ => true
  | .xmitReg _ _ | .xmitAddr _ _ | .xmitIv8 _ _ | .xmitIv _ _ _ | .xmitReserved _ => true

/-- The class XEC. -/
def isXec : Instr → Bool
  | .xecReg _ _ | .xecIv _ _ _ => true
  | .nztReg _ _ | .nztIv _ _ _ | .jmp _ => false
  | .moveRegReg _ _ _ | .moveRegAddr _ _ _ | .moveRegIv _ _ _ | .moveIvReg _ _ _ | .moveIvIv _ _ _
  | .moveIvAddr _ _ _ | .moveReserved _ _ => false
  | .addRegReg _ _ _ | .addRegAddr _ _ _ | .addRegIv _ _ _ | .addIvReg _ _ _ | .addIvIv _ _ _
  | .addIvAddr _ _ _ | .addReserved _ _ => false
  | .andRegReg _ _ _ | .andRegAddr _ _ _ | .andRegIv _ _ _ | .andIvReg _ _ _ | .andIvIv _ _ _
  | .andIvAddr _ _ _ | .andReserved _ _ => false
  | .xorRegReg _ _ _ | .xorRegAddr _ _ _ | .xorRegIv _ _ _ | .xorIvReg _ _ _ | .xorIvIv _ _ _
  | .xorIvAddr _ _ _ | .xorReserved _ _ => false
  | .xmitReg _ _ | .xmitAddr _ _ | .xmitIv8 _ _ | .xmitIv _ _ _ | .xmitReserved _ => false

/-- The first operand of an ADD, after rotation or masking, which AUX is added to (R31, R120 to R125); none for another
class. -/
def addOperand (i : Instr) (s : State) : Option Byte :=
  match i with
  | .addRegReg src rot _ | .addRegAddr src rot _ => some (rotr8 (s.readReg src) rot.toNat)
  | .addRegIv src _ _ => some (s.readReg src)
  | .addIvReg src len _ | .addIvIv src len _ | .addIvAddr src len _ =>
    some (ivOperand (s.latchByte src.bank) src.pos len)
  | .addReserved _ _ => none
  | .moveRegReg _ _ _ | .moveRegAddr _ _ _ | .moveRegIv _ _ _ | .moveIvReg _ _ _ | .moveIvIv _ _ _
  | .moveIvAddr _ _ _ | .moveReserved _ _ => none
  | .andRegReg _ _ _ | .andRegAddr _ _ _ | .andRegIv _ _ _ | .andIvReg _ _ _ | .andIvIv _ _ _
  | .andIvAddr _ _ _ | .andReserved _ _ => none
  | .xorRegReg _ _ _ | .xorRegAddr _ _ _ | .xorRegIv _ _ _ | .xorIvReg _ _ _ | .xorIvIv _ _ _
  | .xorIvAddr _ _ _ | .xorReserved _ _ => none
  | .xmitReg _ _ | .xmitAddr _ _ | .xmitIv8 _ _ | .xmitIv _ _ _ | .xmitReserved _ => none
  | .xecReg _ _ | .xecIv _ _ _ | .nztReg _ _ | .nztIv _ _ _ | .jmp _ => none

/-- The register a form writes, if any (R90, R170 to R173). -/
def destReg : Instr → Option Reg
  | .moveRegReg _ _ d | .addRegReg _ _ d | .andRegReg _ _ d | .xorRegReg _ _ d => some d
  | .moveIvReg _ _ d | .addIvReg _ _ d | .andIvReg _ _ d | .xorIvReg _ _ d => some d
  | .moveRegAddr _ _ b | .addRegAddr _ _ b | .andRegAddr _ _ b | .xorRegAddr _ _ b => some b.addrReg
  | .moveIvAddr _ _ b | .addIvAddr _ _ b | .andIvAddr _ _ b | .xorIvAddr _ _ b => some b.addrReg
  | .moveRegIv _ _ _ | .addRegIv _ _ _ | .andRegIv _ _ _ | .xorRegIv _ _ _ => none
  | .moveIvIv _ _ _ | .addIvIv _ _ _ | .andIvIv _ _ _ | .xorIvIv _ _ _ => none
  | .moveReserved _ _ | .addReserved _ _ | .andReserved _ _ | .xorReserved _ _ => none
  | .xmitReg d _ => some d
  | .xmitAddr b _ => some b.addrReg
  | .xmitIv8 _ _ | .xmitIv _ _ _ | .xmitReserved _ => none
  | .xecReg _ _ | .xecIv _ _ _ | .nztReg _ _ | .nztIv _ _ _ | .jmp _ => none

/-- What a bus phase of a form does: nothing, or a read, a select or a write of a bank (the table of R60). -/
inductive BusUse where
  | none
  | read   (bank : Bank)
  | select (bank : Bank)
  | write  (bank : Bank)
  deriving DecidableEq, Repr

/-- The input phase and the output phase of a form, from the table of R60 (and R61: which port a merging form reads). -/
def busUse : Instr → BusUse × BusUse
  | .moveRegReg _ _ _ | .addRegReg _ _ _ | .andRegReg _ _ _ | .xorRegReg _ _ _ => (.none, .none)
  | .moveRegAddr _ _ b | .addRegAddr _ _ b | .andRegAddr _ _ b | .xorRegAddr _ _ b => (.none, .select b)
  | .moveRegIv _ _ d | .addRegIv _ _ d | .andRegIv _ _ d | .xorRegIv _ _ d => (.read d.bank, .write d.bank)
  | .moveIvReg f _ _ | .addIvReg f _ _ | .andIvReg f _ _ | .xorIvReg f _ _ => (.read f.bank, .none)
  | .moveIvAddr f _ b | .addIvAddr f _ b | .andIvAddr f _ b | .xorIvAddr f _ b => (.read f.bank, .select b)
  | .moveIvIv f _ d | .addIvIv f _ d | .andIvIv f _ d | .xorIvIv f _ d => (.read f.bank, .write d.bank)
  | .moveReserved _ _ | .addReserved _ _ | .andReserved _ _ | .xorReserved _ _ | .xmitReserved _ => (.none, .none)
  | .xecReg _ _ | .nztReg _ _ | .xmitReg _ _ | .jmp _ => (.none, .none)
  | .xecIv f _ _ | .nztIv f _ _ => (.read f.bank, .none)
  | .xmitAddr b _ => (.none, .select b)
  | .xmitIv8 b _ => (.none, .write b)
  | .xmitIv d _ _ => (.read d.bank, .write d.bank)

/-- The levels of SC, WC, LB, RB in a phase (R56 to R58, R60; LB and RB low enable their bank). -/
def BusUse.levels : BusUse → Levels
  | .none => { sc := false, wc := false, lb := true, rb := true }
  | .read .left => { sc := false, wc := false, lb := false, rb := true }
  | .read .right => { sc := false, wc := false, lb := true, rb := false }
  | .select .left => { sc := true, wc := false, lb := false, rb := true }
  | .select .right => { sc := true, wc := false, lb := true, rb := false }
  | .write .left => { sc := false, wc := true, lb := false, rb := true }
  | .write .right => { sc := false, wc := true, lb := true, rb := false }

/-! ## The decode table -/

/-- A row of the table of R95: a word is of the row when `word &&& mask = value` and it matches none of `excepts`. -/
structure TableRow where
  mask    : Word
  value   : Word
  excepts : List (Word × Word)
  deriving DecidableEq, Repr

/-- The word is one of the row (R95). -/
def TableRow.holds (r : TableRow) (w : Word) : Bool :=
  w &&& r.mask == r.value && r.excepts.all fun e => w &&& e.1 != e.2

/-- The seven rows of a class of operation code `b >> 13`, in the order of `AluForm` (R95). -/
def aluRow (b : Word) : AluForm → TableRow
  | .regReg _ _ _ => ⟨0xF010, b, [(0x0017, 0x0007), (0x001F, 0x0008)]⟩
  | .regAddr _ _ _ => ⟨0xF017, b + 0x0007, []⟩
  | .regIv _ _ _ => ⟨0xF010, b + 0x0010, []⟩
  | .ivReg _ _ _ => ⟨0xF010, b + 0x1000, [(0x0017, 0x0007), (0x001F, 0x0008)]⟩
  | .ivIv _ _ _ => ⟨0xF010, b + 0x1010, []⟩
  | .ivAddr _ _ _ => ⟨0xF017, b + 0x1007, []⟩
  | .reserved _ _ => ⟨0xE01F, b + 0x0008, []⟩

/-- The row of spec/opcode_table.json that an instruction is of (R95). -/
def tableRow : Instr → TableRow
  | .moveRegReg s r d => aluRow 0x0000 (.regReg s r d)
  | .moveRegAddr s r b => aluRow 0x0000 (.regAddr s r b)
  | .moveRegIv s l d => aluRow 0x0000 (.regIv s l d)
  | .moveIvReg s l d => aluRow 0x0000 (.ivReg s l d)
  | .moveIvIv s l d => aluRow 0x0000 (.ivIv s l d)
  | .moveIvAddr s l b => aluRow 0x0000 (.ivAddr s l b)
  | .moveReserved s rl => aluRow 0x0000 (.reserved s rl)
  | .addRegReg s r d => aluRow 0x2000 (.regReg s r d)
  | .addRegAddr s r b => aluRow 0x2000 (.regAddr s r b)
  | .addRegIv s l d => aluRow 0x2000 (.regIv s l d)
  | .addIvReg s l d => aluRow 0x2000 (.ivReg s l d)
  | .addIvIv s l d => aluRow 0x2000 (.ivIv s l d)
  | .addIvAddr s l b => aluRow 0x2000 (.ivAddr s l b)
  | .addReserved s rl => aluRow 0x2000 (.reserved s rl)
  | .andRegReg s r d => aluRow 0x4000 (.regReg s r d)
  | .andRegAddr s r b => aluRow 0x4000 (.regAddr s r b)
  | .andRegIv s l d => aluRow 0x4000 (.regIv s l d)
  | .andIvReg s l d => aluRow 0x4000 (.ivReg s l d)
  | .andIvIv s l d => aluRow 0x4000 (.ivIv s l d)
  | .andIvAddr s l b => aluRow 0x4000 (.ivAddr s l b)
  | .andReserved s rl => aluRow 0x4000 (.reserved s rl)
  | .xorRegReg s r d => aluRow 0x6000 (.regReg s r d)
  | .xorRegAddr s r b => aluRow 0x6000 (.regAddr s r b)
  | .xorRegIv s l d => aluRow 0x6000 (.regIv s l d)
  | .xorIvReg s l d => aluRow 0x6000 (.ivReg s l d)
  | .xorIvIv s l d => aluRow 0x6000 (.ivIv s l d)
  | .xorIvAddr s l b => aluRow 0x6000 (.ivAddr s l b)
  | .xorReserved s rl => aluRow 0x6000 (.reserved s rl)
  | .xecReg _ _ => ⟨0xF000, 0x8000, []⟩
  | .xecIv _ _ _ => ⟨0xF000, 0x9000, []⟩
  | .nztReg _ _ => ⟨0xF000, 0xA000, []⟩
  | .nztIv _ _ _ => ⟨0xF000, 0xB000, []⟩
  | .xmitReg _ _ => ⟨0xF000, 0xC000, [(0x1700, 0x0700), (0x1F00, 0x0800), (0x1E00, 0x0A00)]⟩
  | .xmitAddr _ _ => ⟨0xF700, 0xC700, []⟩
  | .xmitIv8 _ _ => ⟨0xFE00, 0xCA00, []⟩
  | .xmitIv _ _ _ => ⟨0xF000, 0xD000, []⟩
  | .xmitReserved _ => ⟨0xFF00, 0xC800, []⟩
  | .jmp _ => ⟨0xE000, 0xE000, []⟩

end Sys2Proof.Machine
end

