-- ==== Sys2Proof/Certificates/Slice0/Obligations.lean ====
section
/-! DEFINITION. Certificates/Slice0/Obligations.lean: the statements for the provers. Names used in them that are not the
model's own operations (`CompletesToReg` and its kin, the frames, the tables) are defined in Sys2Proof/Safety.lean. -/

open Sys2Proof Sys2Proof.Machine

/-! ## Encoding -/

/-- Decoding the bytes of a well-formed instruction gives it back, with every operand at every value its field admits, and
leaves the bytes behind it alone. -/
def Obligations.DecodeEncode : Prop :=
  ∀ (i : Instr) (rest : List Byte), i.wellFormed = true → decode (encode i ++ rest) = .ok (i, rest)

/-- Every 16-bit word is the word of the well-formed instruction it decodes to, so no bit of a word is dropped. -/
def Obligations.EncodeDecode : Prop :=
  ∀ w : Word, (decodeWord w).wellFormed = true ∧ encodeWord (decodeWord w) = w

/-- Every word is one of the row of the decode table (R95) that its decoded instruction is of: the mask and value match
and none of the row's exceptions does. -/
def Obligations.DecodeFollowsTable : Prop :=
  ∀ w : Word, (tableRow (decodeWord w)).holds w = true

/-- The rows of the decode table do not overlap: a word of the rows of two instructions shows they are one row. -/
def Obligations.TableRowsDisjoint : Prop :=
  ∀ (i j : Instr) (w : Word), (tableRow i).holds w = true → (tableRow j).holds w = true → tableRow i = tableRow j

/-- The words that decode to a reserved row are those with D = 10o (R97): in the classes MOVE, ADD, AND, XOR the words
`w &&& 0x801F = 0x0008`, in XMIT `w &&& 0xFF00 = 0xC800`, and no others. -/
def Obligations.ReservedWords : Prop :=
  ∀ w : Word, (decodeWord w).reserved = true ↔ (w &&& 0x801F = 0x0008 ∨ w &&& 0xFF00 = 0xC800)

/-- The words the spec derives for the manual's eight examples, and one word of every class besides, decode to the
instructions they stand for (spec/30_encoding.md section 5, spec/95_test_vectors.md section 2). The second word of each
class, in the order of the operation codes, stands in the last eight lines. -/
def Obligations.ExampleWords : Prop :=
  decodeWord 0x0576 = .moveRegIv .r5 3 ⟨.left, 6⟩ ∧
  decodeWord 0x2183 = .addRegReg .r1 4 .r3 ∧
  decodeWord 0x5D84 = .andIvReg ⟨.right, 5⟩ 4 .r4 ∧
  decodeWord 0x77B7 = .xorIvIv ⟨.left, 7⟩ 5 ⟨.left, 7⟩ ∧
  decodeWord 0x9666 = .xecIv ⟨.left, 6⟩ 3 6 ∧
  decodeWord 0xB331 = .nztIv ⟨.left, 3⟩ 1 0x11 ∧
  decodeWord 0xDD66 = .xmitIv ⟨.right, 5⟩ 3 6 ∧
  decodeWord 0xE171 = .jmp 369 ∧
  decodeWord 0x038F = .moveRegAddr .r3 4 .right ∧
  decodeWord 0x3717 = .addIvIv ⟨.left, 7⟩ 0 ⟨.left, 7⟩ ∧
  decodeWord 0x417A = .andRegIv .r1 3 ⟨.right, 2⟩ ∧
  decodeWord 0x732F = .xorIvAddr ⟨.left, 3⟩ 1 .right ∧
  decodeWord 0x82FF = .xecReg .r2 0xFF ∧
  decodeWord 0xA808 = .nztReg .r10 0x08 ∧
  decodeWord 0xCA5A = .xmitIv8 .left 0x5A ∧
  decodeWord 0xFFFF = .jmp 8191

/-! ## The data path -/

/-- `rotr8` is the 8-bit right rotation: the value of R8's formula, and bit k of the result is bit k + n, counted round the
byte. -/
def Obligations.RotateRight : Prop :=
  ∀ (v : Byte) (n : Nat), n ≤ 7 →
    (rotr8 v n).toNat = ((v.toNat >>> n) ||| (v.toNat <<< (8 - n))) &&& 0xFF ∧ rotr8 v 0 = v ∧
    ∀ k, k < 8 → (rotr8 v n).getLsbD k = v.getLsbD ((k + n) % 8)

/-- The length of a field, its mask of low bits (R9), and the Mask function: the low bits pass, all others are zero
(R10). -/
def Obligations.MaskKeepsLowBits : Prop :=
  fieldLen 0 = 8 ∧ (∀ l : BitVec 3, l ≠ 0 → fieldLen l = l.toNat) ∧
  (∀ l : BitVec 3, (lowmask l).toNat = 2 ^ fieldLen l - 1) ∧
  ∀ (v : Byte) (l : BitVec 3) (k : Nat), (maskField v l).getLsbD k = (decide (k < fieldLen l) && v.getLsbD k)

/-- Bit k of the merged byte, with n = 7 - D0: inside the field, which begins at n and is `fieldLen l` long, bit k - n of the
value; outside it, the latch's own bit. A field that would pass the most significant bit is cut off there, which is the
spec's decision D19 (log 13). -/
def Obligations.MergeBits : Prop :=
  ∀ (latch v : Byte) (l pos : BitVec 3) (k : Nat), k < 8 →
    (merge latch v l pos).getLsbD k =
      if 7 - pos.toNat ≤ k ∧ k < 7 - pos.toNat + fieldLen l then v.getLsbD (k - (7 - pos.toNat))
      else latch.getLsbD k

/-- Bit k of an IV-bus operand: below the length, the port's bit that lies k places above the manual's bit S0, counted round
the byte; above it, zero (R89). -/
def Obligations.IvOperandBits : Prop :=
  ∀ (latch : Byte) (pos l : BitVec 3) (k : Nat), k < 8 →
    (ivOperand latch pos l).getLsbD k =
      (decide (k < fieldLen l) && latch.getLsbD ((k + (7 - pos.toNat)) % 8))

/-- `add8` is the sum modulo 256 and the carry out of eight bits (R13). -/
def Obligations.AdditionAndCarry : Prop :=
  ∀ a b : Byte, (add8 a b).1.toNat = (a.toNat + b.toNat) % 256 ∧
    ((add8 a b).2 = true ↔ 255 < a.toNat + b.toNat)

/-! ## MOVE, ADD, AND, XOR -/

/-- Register, Register of MOVE, ADD, AND, XOR: the rotated source, alone or with AUX, goes to the destination; only ADD
writes OVF, with the carry of the 8-bit sum; no bus operation; everything else unchanged; the address of `SeqNext()`. The
source may be any register, R10 among them, and the destination may be the source or AUX: both are read before anything
is written. -/
def Obligations.RegisterToRegister : Prop :=
  ∀ (src : Reg) (rot : BitVec 3) (dst : Reg) (s : State), dst.plainDst = true →
    let a := rotr8 (s.readReg src) rot.toNat
    let aux := s.readReg .r0
    CompletesToReg (.moveRegReg src rot dst) s dst a s.ovf none ∧
    CompletesToReg (.addRegReg src rot dst) s dst (BitVec.ofNat 8 ((a.toNat + aux.toNat) % 256))
      (decide (255 < a.toNat + aux.toNat)) none ∧
    CompletesToReg (.andRegReg src rot dst) s dst (a &&& aux) s.ovf none ∧
    CompletesToReg (.xorRegReg src rot dst) s dst (a ^^^ aux) s.ovf none

/-- Register, IV Bus Address of MOVE, ADD, AND, XOR: the result goes to R7 or R17 and to that bank as a port address, whose
port becomes the selected one; the other bank keeps its selection; no port's data changes. -/
def Obligations.RegisterToAddress : Prop :=
  ∀ (src : Reg) (rot : BitVec 3) (bank : Bank) (s : State),
    let a := rotr8 (s.readReg src) rot.toNat
    let aux := s.readReg .r0
    CompletesToAddr (.moveRegAddr src rot bank) s bank a s.ovf none ∧
    CompletesToAddr (.addRegAddr src rot bank) s bank (BitVec.ofNat 8 ((a.toNat + aux.toNat) % 256))
      (decide (255 < a.toNat + aux.toNat)) none ∧
    CompletesToAddr (.andRegAddr src rot bank) s bank (a &&& aux) s.ovf none ∧
    CompletesToAddr (.xorRegAddr src rot bank) s bank (a ^^^ aux) s.ovf none

/-- Register, IV Bus of MOVE, AND, XOR: the destination bank's port is read, the low bits of the result are merged into that
byte at D0 and L, and the whole byte is written back to the port the bank has selected; no register and no other port
changes. That `merge` cuts a field off at the most significant bit is the spec's decision D19 (log 13). -/
def Obligations.RegisterToIvBus : Prop :=
  ∀ (src : Reg) (len : BitVec 3) (dst : IvField) (s : State),
    let a := s.readReg src
    let aux := s.readReg .r0
    let latch := s.latchByte dst.bank
    CompletesToPort (.moveRegIv src len dst) s dst.bank (merge latch a len dst.pos) s.ovf (some dst.bank) ∧
    CompletesToPort (.andRegIv src len dst) s dst.bank (merge latch (a &&& aux) len dst.pos) s.ovf (some dst.bank) ∧
    CompletesToPort (.xorRegIv src len dst) s dst.bank (merge latch (a ^^^ aux) len dst.pos) s.ovf (some dst.bank)

/-- ADD-Register, IV Bus: as the other classes, and OVF is the carry of the full 8-bit sum, whatever the field's length. That
the register is not masked first is the spec's decision D21 (log 15). -/
def Obligations.AddRegisterToIvBus : Prop :=
  ∀ (src : Reg) (len : BitVec 3) (dst : IvField) (s : State),
    let sum := (s.readReg src).toNat + (s.readReg .r0).toNat
    CompletesToPort (.addRegIv src len dst) s dst.bank
      (merge (s.latchByte dst.bank) (BitVec.ofNat 8 (sum % 256)) len dst.pos) (decide (255 < sum)) (some dst.bank)

/-- IV Bus, Register of MOVE, ADD, AND, XOR: the source bank's port is read once, its field is the operand, and the whole
8-bit result goes to the register; no port is written. -/
def Obligations.IvBusToRegister : Prop :=
  ∀ (src : IvField) (len : BitVec 3) (dst : Reg) (s : State), dst.plainDst = true →
    let a := ivOperand (s.latchByte src.bank) src.pos len
    let aux := s.readReg .r0
    CompletesToReg (.moveIvReg src len dst) s dst a s.ovf (some src.bank) ∧
    CompletesToReg (.addIvReg src len dst) s dst (BitVec.ofNat 8 ((a.toNat + aux.toNat) % 256))
      (decide (255 < a.toNat + aux.toNat)) (some src.bank) ∧
    CompletesToReg (.andIvReg src len dst) s dst (a &&& aux) s.ovf (some src.bank) ∧
    CompletesToReg (.xorIvReg src len dst) s dst (a ^^^ aux) s.ovf (some src.bank)

/-- IV Bus, IV Bus of MOVE, ADD, AND, XOR: one read, of the source bank's port; the processed field is merged into the
source's byte, and that whole byte is written to the destination bank's port, also where the banks differ. That L counts
between banks as within one is the spec's decision D13 (log 11). -/
def Obligations.IvBusToIvBus : Prop :=
  ∀ (src : IvField) (len : BitVec 3) (dst : IvField) (s : State),
    let latch := s.latchByte src.bank
    let a := ivOperand latch src.pos len
    let aux := s.readReg .r0
    CompletesToPort (.moveIvIv src len dst) s dst.bank (merge latch a len dst.pos) s.ovf (some src.bank) ∧
    CompletesToPort (.addIvIv src len dst) s dst.bank
      (merge latch (BitVec.ofNat 8 ((a.toNat + aux.toNat) % 256)) len dst.pos)
      (decide (255 < a.toNat + aux.toNat)) (some src.bank) ∧
    CompletesToPort (.andIvIv src len dst) s dst.bank (merge latch (a &&& aux) len dst.pos) s.ovf (some src.bank) ∧
    CompletesToPort (.xorIvIv src len dst) s dst.bank (merge latch (a ^^^ aux) len dst.pos) s.ovf (some src.bank)

/-- IV Bus, IV Bus Address of MOVE, ADD, AND, XOR: the field of the port selected at the start of the cycle, alone or with
AUX, goes to R7 or R17 and to that bank as a port address. -/
def Obligations.IvBusToAddress : Prop :=
  ∀ (src : IvField) (len : BitVec 3) (bank : Bank) (s : State),
    let a := ivOperand (s.latchByte src.bank) src.pos len
    let aux := s.readReg .r0
    CompletesToAddr (.moveIvAddr src len bank) s bank a s.ovf (some src.bank) ∧
    CompletesToAddr (.addIvAddr src len bank) s bank (BitVec.ofNat 8 ((a.toNat + aux.toNat) % 256))
      (decide (255 < a.toNat + aux.toNat)) (some src.bank) ∧
    CompletesToAddr (.andIvAddr src len bank) s bank (a &&& aux) s.ovf (some src.bank) ∧
    CompletesToAddr (.xorIvAddr src len bank) s bank (a ^^^ aux) s.ovf (some src.bank)

/-! ## XEC, NZT, XMIT, JMP -/

/-- XEC-Register: AR is in the 256-word page of PC at the sum of literal and register modulo 256; PC, the registers, OVF and
the ports are unchanged. -/
def Obligations.ExecuteRegister : Prop :=
  ∀ (src : Reg) (lit : BitVec 8) (s : State),
    CompletesAt (.xecReg src lit) s s.pc.toNat
      (s.pc.toNat / 256 * 256 + (lit.toNat + (s.readReg src).toNat) % 256) none

/-- XEC-IV Bus: AR is in the 32-word page of PC at the sum of literal and field modulo 32. That L = 0, 6 and 7 follow the
same rule is the spec's decision D5 (log 12). -/
def Obligations.ExecuteIvBus : Prop :=
  ∀ (src : IvField) (len : BitVec 3) (lit : BitVec 5) (s : State),
    CompletesAt (.xecIv src len lit) s s.pc.toNat
      (s.pc.toNat / 32 * 32 + (lit.toNat + (ivOperand (s.latchByte src.bank) src.pos len).toNat) % 32)
      (some src.bank)

/-- NZT-Register: a non-zero register puts the literal into the low eight bits of PC, and PC into AR; a zero one goes on in
sequence. -/
def Obligations.NonZeroRegister : Prop :=
  ∀ (src : Reg) (lit : BitVec 8) (s : State),
    (s.readReg src ≠ 0 → CompletesAt (.nztReg src lit) s (s.pc.toNat / 256 * 256 + lit.toNat)
      (s.pc.toNat / 256 * 256 + lit.toNat) none) ∧
    (s.readReg src = 0 → CompletesAt (.nztReg src lit) s s.seqNext.pc.toNat s.seqNext.ar.toNat none)

/-- NZT-IV Bus: a non-zero field puts the literal into the low five bits of PC, and PC into AR; a zero one goes on in
sequence. -/
def Obligations.NonZeroIvBus : Prop :=
  ∀ (src : IvField) (len : BitVec 3) (lit : BitVec 5) (s : State),
    let v := ivOperand (s.latchByte src.bank) src.pos len
    (v ≠ 0 → CompletesAt (.nztIv src len lit) s (s.pc.toNat / 32 * 32 + lit.toNat)
      (s.pc.toNat / 32 * 32 + lit.toNat) (some src.bank)) ∧
    (v = 0 → CompletesAt (.nztIv src len lit) s s.seqNext.pc.toNat s.seqNext.ar.toNat (some src.bank))

/-- XMIT-Register: the literal goes to the register; no bus operation. -/
def Obligations.TransmitRegister : Prop :=
  ∀ (dst : Reg) (lit : BitVec 8) (s : State), dst.xmitDst = true →
    CompletesToReg (.xmitReg dst lit) s dst lit s.ovf none

/-- XMIT-IV Bus Address: the literal goes to R7 or R17 and to that bank as a port address. -/
def Obligations.TransmitAddress : Prop :=
  ∀ (bank : Bank) (lit : BitVec 8) (s : State), CompletesToAddr (.xmitAddr bank lit) s bank lit s.ovf none

/-- XMIT-Register, IV Bus: the whole literal is written to the bank's selected port, which is not read first; no register
changes, R12 and R13 among them. -/
def Obligations.TransmitByte : Prop :=
  ∀ (bank : Bank) (lit : BitVec 8) (s : State), CompletesToPort (.xmitIv8 bank lit) s bank lit s.ovf none

/-- XMIT-IV Bus: the 5-bit literal, zeros above it, is merged into the byte of the destination bank's port. The zeros in a
field longer than five bits are the spec's decision D20 (log 14). -/
def Obligations.TransmitField : Prop :=
  ∀ (dst : IvField) (len : BitVec 3) (lit : BitVec 5) (s : State),
    CompletesToPort (.xmitIv dst len lit) s dst.bank
      (merge (s.latchByte dst.bank) (BitVec.ofNat 8 lit.toNat) len dst.pos) s.ovf (some dst.bank)

/-- JMP: PC and AR are the 13-bit address; nothing else changes. -/
def Obligations.JumpToAddress : Prop :=
  ∀ (addr : ProgAddr) (s : State), CompletesAt (.jmp addr) s addr.toNat addr.toNat none

/-- A word whose destination is R10 has no next state: the model refuses it (decision D4, log 7). -/
def Obligations.ReservedRefused : Prop :=
  ∀ (src : BitVec 5) (rl : BitVec 3) (lit : BitVec 8) (s : State),
    exec (.moveReserved src rl) s = .refused .reservedDestination ∧
    exec (.addReserved src rl) s = .refused .reservedDestination ∧
    exec (.andReserved src rl) s = .refused .reservedDestination ∧
    exec (.xorReserved src rl) s = .refused .reservedDestination ∧
    exec (.xmitReserved lit) s = .refused .reservedDestination

/-! ## The instruction cycle -/

/-- Where neither pin is asserted and the two bytes at the word that AR addresses decode to an instruction, the step is that
instruction on the state in which the environment has changed its ports; with no inputs listed, on the very state. Two
things in this are the model's choice: that the environment's inputs are taken first (log 9), and that word a stands at
bytes 2a and 2a + 1, the more significant first (the spec's decision D15, log 17). -/
def Obligations.StepRunsDecoded : Prop :=
  ∀ (s : State) (i : Instr), s.runs →
    decode [s.progByte (2 * s.ar.toNat), s.progByte (2 * s.ar.toNat + 1)] = .ok (i, []) →
    step s = exec i s.takeInput ∧ (s.inputs = [] → step s = exec i s)

/-- What the environment does at the start of a cycle: a port whose data it changes holds the last byte given for it, every
other one its own; selections, wiring, registers, program storage and the bus record are unchanged; the next cycle's inputs
come up. That inputs are taken so is the model's choice (log 9). -/
def Obligations.EnvironmentChangesPorts : Prop :=
  ∀ s : State,
    (∀ b a, s.takeInput.portByte b a =
      (((s.cycleInput.ports.filter fun c => c.bank = b ∧ c.addr = a).getLast?).map PortChange.data).getD
        (s.portByte b a)) ∧
    (∀ r, s.takeInput.readReg r = s.readReg r) ∧ (∀ n, s.takeInput.progByte n = s.progByte n) ∧
    (∀ b, (s.takeInput.bank b).sel = (s.bank b).sel ∧ (s.takeInput.bank b).kinds = (s.bank b).kinds) ∧
    s.takeInput.pc = s.pc ∧ s.takeInput.ar = s.ar ∧ s.takeInput.bus = s.bus ∧ s.takeInput.pulseDue = s.pulseDue ∧
    s.takeInput.floats = s.floats ∧ s.takeInput.inputs = s.inputs.tail

/-- A cycle with RESET low: PC and AR are zero, every register and OVF keep what they held, no IV-bus operation, no selection
changes and no port but as the environment changes it, MCLK inhibited and a pulse of it due (log 27); HALT does not matter
(R41, R220). That RESET takes a whole cycle is the spec's decision D9 (log 10); that the environment's port changes are taken in
such a cycle is the model's choice (log 9). -/
def Obligations.ResetCycle : Prop :=
  ∀ s : State, s.resetLow = true →
    ∃ t, step s = .next t ∧ t.pc = 0 ∧ t.ar = 0 ∧ s.RegsKept t s.ovf ∧
      t.bus = { input := none, output := none, mclk := false, pulseBefore := false } ∧ t.pulseDue = true ∧
      s.takeInput.OutsideSame t ∧ t.floats = s.floats

/-- A cycle with RESET high and HALT low when sampled: no register changes, PC and AR among them, no IV-bus operation, MCLK
pulses, and before it the pulse that was due after RESET (log 27). Where the environment changed no port in it, the next cycle does
what it would have done without the halt, but for that pulse, which has then been given. The model's choices and the spec's
decisions in this: the environment's inputs (log 9), the released bus with LB and RB high (C15, log 20), and the word fetched
afresh from a constant program storage after the halt (R198, D10, log 25). -/
def Obligations.HaltCycle : Prop :=
  ∀ s : State, s.resetLow = false → s.haltLow = true →
    ∃ t, step s = .next t ∧ t.pc = s.pc ∧ t.ar = s.ar ∧ s.RegsKept t s.ovf ∧
      t.bus = { input := none, output := none, mclk := true, pulseBefore := s.pulseDue } ∧ t.pulseDue = false ∧
      s.takeInput.OutsideSame t ∧ t.floats = s.floats ∧
      (s.cycleInput.ports = [] → step t = step { s with inputs := s.inputs.tail, pulseDue := false })

/-- A step has no next state in one case only: an instruction runs and its word is reserved, and then the refusal says so
(decision D4, log 7). No exception, fault or trap is among the outcomes. The word is the one fetched after the environment's
inputs are taken, which is the model's choice (log 9). -/
def Obligations.StepTotal : Prop :=
  ∀ s : State,
    ((∃ t, step s = .next t) ↔ ¬(s.runs ∧ (decodeWord s.takeInput.fetchWord).reserved = true)) ∧
    (s.runs → (decodeWord s.takeInput.fetchWord).reserved = true → step s = .refused .reservedDestination)

/-- Every instruction of the 33 forms completes in every state: no mode, no operand value and no port stops it. -/
def Obligations.EveryFormCompletes : Prop :=
  ∀ (i : Instr) (s : State), i.wellFormed = true → i.reserved = false → ∃ t, exec i s = .next t

/-- The invariant is kept by every step from any state that has it: memories in canonical form with no address that does not
exist, no missing port selected, AR in the page of PC, and an MCLK pulse due exactly after a cycle with MCLK inhibited (the
last as the model records the pulse, log 27). -/
def Obligations.StepKeepsInvariant : Prop :=
  ∀ s t : State, s.Inv → step s = .next t → t.Inv

/-- The state after RESET has the invariant, PC and AR are zero, and no port is selected on either bank (the last is the spec's
decision D6, log 8). -/
def Obligations.ResetState : Prop :=
  State.reset.Inv ∧ State.reset.pc = 0 ∧ State.reset.ar = 0 ∧ ∀ b, (State.reset.bank b).sel = none

/-- The model's `withFetchWord` does what it is for: the very next step runs the word's instruction (log 18). -/
def Obligations.WithFetchWordRuns : Prop :=
  ∀ (s : State) (w : Word),
    step (s.withFetchWord 16 w.toNat) = exec (decodeWord w) (s.withFetchWord 16 w.toNat).takeInput

/-! ## Rules of the whole machine -/

/-- OVF, the least significant bit that R10 reads as, is written by every ADD, with the carry out of the 8-bit sum of its
first operand and AUX, and by nothing else. That the first operand of ADD-Register, IV Bus is the whole register, not
masked, is the spec's decision D21 (R122, log 15). -/
def Obligations.OverflowOnlyByAdd : Prop :=
  ∀ (i : Instr) (s t : State), exec i s = .next t →
    (∀ a, addOperand i s = some a → t.ovf = decide (255 < a.toNat + (s.readReg .r0).toNat)) ∧
    (addOperand i s = none → t.ovf = s.ovf) ∧ (t.readReg .r10).getLsbD 0 = t.ovf

/-- No instruction reads program storage as data and none writes it: with any other contents there, the instruction does the
same and leaves those contents. -/
def Obligations.ProgramIsNotData : Prop :=
  ∀ (i : Instr) (s : State) (p : Memory),
    exec i { s with prog := p } = onNext (exec i s) fun t => { t with prog := p }

/-- Program storage is constant in a run: no step changes what any byte of it reads as. -/
def Obligations.StepKeepsProgram : Prop :=
  ∀ s t : State, step s = .next t → ∀ n, t.progByte n = s.progByte n

/-- An instruction acts on the ports only by the event of its output phase. An address select on a bank sets that bank's
selection and its address register; where there is none, both are unchanged. A write on a bank sets the port that takes it;
every other port is unchanged. -/
def Obligations.PortsChangeOnlyByBusEvents : Prop :=
  ∀ (i : Instr) (s t : State) (b : Bank), exec i s = .next t →
    (∀ a, t.bus.output = some (.select b a) → (t.bank b).sel = s.selected b a ∧ t.readReg b.addrReg = a) ∧
    ((∀ a, t.bus.output ≠ some (.select b a)) →
      (t.bank b).sel = (s.bank b).sel ∧ t.readReg b.addrReg = s.readReg b.addrReg) ∧
    (∀ v a, t.bus.output = some (.write b v) → s.writeTarget b = some a → t.portByte b a = v) ∧
    (∀ a, (∀ v, t.bus.output = some (.write b v) → s.writeTarget b ≠ some a) →
      t.portByte b a = s.portByte b a)

/-- PC and AR are equal after every instruction but an XEC; an XEC leaves PC and puts AR into PC's 256-word page. -/
def Obligations.AddressesDifferOnlyAfterExecute : Prop :=
  ∀ (i : Instr) (s t : State), exec i s = .next t →
    (isXec i = false → t.ar = t.pc) ∧ (isXec i = true → t.pc = s.pc ∧ t.samePage)

/-- The target of an XEC. A MOVE, ADD, AND, XOR, XMIT or unsatisfied NZT goes on after the XEC; a JMP goes to its address; a
satisfied NZT branches in the page of the XEC, not of its own address; an XEC keeps the PC of the first one. -/
def Obligations.ExecuteTarget : Prop :=
  ∀ (x i : Instr) (s t u : State), isXec x = true → exec x s = .next t → exec i t = .next u →
    (sequential i = true → u.pc = s.seqNext.pc ∧ u.ar = s.seqNext.ar) ∧
    (∀ a, i = .jmp a → u.pc = a ∧ u.ar = a) ∧
    (∀ src lit, i = .nztReg src lit →
      (s.readReg src = 0 → u.pc = s.seqNext.pc ∧ u.ar = s.seqNext.ar) ∧
      (s.readReg src ≠ 0 → u.pc.toNat = s.pc.toNat / 256 * 256 + lit.toNat ∧ u.ar = u.pc)) ∧
    (∀ src len lit, i = .nztIv src len lit →
      (ivOperand (t.latchByte src.bank) src.pos len = 0 → u.pc = s.seqNext.pc ∧ u.ar = s.seqNext.ar) ∧
      (ivOperand (t.latchByte src.bank) src.pos len ≠ 0 →
        u.pc.toNat = s.pc.toNat / 32 * 32 + lit.toNat ∧ u.ar = u.pc)) ∧
    (isXec i = true → u.pc = s.pc)

/-- The bus table: what each form does in the input and the output phase and the levels of SC, WC, LB and RB; at most one read
and one select or write a cycle; SC and WC are never both high; MCLK pulses in every cycle that runs, and once before it where RESET has just been released (log 27). The rows the spec
reconstructs are its own inference (R60, marked there). -/
def Obligations.BusTable : Prop :=
  ∀ (i : Instr) (s t : State), i.wellFormed = true → exec i s = .next t →
    t.bus.inputLevels = (busUse i).1.levels ∧ t.bus.outputLevels = (busUse i).2.levels ∧
    (∀ b, (busUse i).1 = .read b ↔ ∃ v, t.bus.input = some (b, v)) ∧
    (∀ b, (busUse i).2 = .select b ↔ ∃ a, t.bus.output = some (.select b a)) ∧
    (∀ b, (busUse i).2 = .write b ↔ ∃ v, t.bus.output = some (.write b v)) ∧
    ¬(t.bus.outputLevels.sc = true ∧ t.bus.outputLevels.wc = true) ∧ t.bus.mclk = true ∧
    t.bus.pulseBefore = s.pulseDue ∧ t.pulseDue = false

/-- An instruction changes no register but the one its form names as destination, and OVF. -/
def Obligations.OnlyDestinationChanges : Prop :=
  ∀ (i : Instr) (s t : State) (r : Reg), exec i s = .next t → destReg i ≠ some r → r ≠ .r10 →
    t.readReg r = s.readReg r

/-- XMIT loads none of R10, R12 and R13. -/
def Obligations.TransmitCannotLoad : Prop :=
  ∀ (d : Reg) (b : Bank) (f : IvField) (l : BitVec 3) (j8 : BitVec 8) (j5 : BitVec 5) (i : Instr) (s t : State)
    (r : Reg), d.xmitDst = true → i ∈ [Instr.xmitReg d j8, .xmitAddr b j8, .xmitIv8 b j8, .xmitIv f l j5] →
    r ∈ [Reg.r10, .r12, .r13] → exec i s = .next t → t.readReg r = s.readReg r

/-! ## Registers and the IV bus -/

/-- A register write: an ordinary register takes the value and nothing else happens; R7 and R17 take it and send it to their
bank as an address; R10 is not permitted, and that there is no next state then is the spec's decision D4 (R97, log 7; of
terms that no word stands for, log 23). A read afterwards gives the value, and of every other
register what it gave before. -/
def Obligations.RegisterWrite : Prop :=
  ∀ (r : Reg) (v : Byte) (s : State),
    (r.plainDst = true → ∃ t, writeReg r v s = .next t ∧ t.readReg r = v ∧
      (∀ q, q ≠ r → t.readReg q = s.readReg q) ∧ t.pc = s.pc ∧ t.ar = s.ar ∧ s.OutsideSame t ∧ t.bus = s.bus) ∧
    (∀ b : Bank, r = b.addrReg → ∃ t, writeReg r v s = .next t ∧ t.readReg r = v ∧
      (∀ q, q ≠ r → t.readReg q = s.readReg q) ∧ t.pc = s.pc ∧ t.ar = s.ar ∧ s.PortSelected t b v ∧
      t.bus = { s.bus with output := some (.select b v) }) ∧
    (r = .r10 → ∀ t, writeReg r v s ≠ .next t)

/-- R10 reads as OVF with zeros above it (decision D3, log 3), and no instruction whose class is not ADD changes what it
reads. -/
def Obligations.OverflowRegisterRead : Prop :=
  (∀ s : State, (s.readReg .r10).toNat = if s.ovf then 1 else 0) ∧
  ∀ (i : Instr) (s t : State), exec i s = .next t → addOperand i s = none → t.readReg .r10 = s.readReg .r10

/-- What a read of a bank takes: the byte of the selected port, where that port can be read. Where none is selected or it
cannot be read, the byte is a free one (log 6), and the next such read takes another. Neither selection nor ports change. -/
def Obligations.ReadTakesSelectedPort : Prop :=
  ∀ (s : State) (b : Bank),
    (∀ a, (s.bank b).sel = some a → (s.portKind b a).readable = true →
      s.latchByte b = s.portByte b a ∧ (s.ivRead b).floats = s.floats) ∧
    ((∀ a, (s.bank b).sel = some a → (s.portKind b a).readable = false) →
      s.latchByte b = Config.floatingByte s.floats ∧ (s.ivRead b).floats = s.floats + 1) ∧
    s.OutsideSame (s.ivRead b) ∧ s.RegsKept (s.ivRead b) s.ovf

/-- A port is usable in the very next instruction after the one that selects it: XMIT of an address, then MOVE of the whole
port to a register, loads that port's byte, if the port can be read. -/
def Obligations.SelectThenRead : Prop :=
  ∀ (b : Bank) (a : Byte) (r : Reg) (s t u : State), r.plainDst = true → (s.portKind b a).readable = true →
    exec (.xmitAddr b a) s = .next t → exec (.moveIvReg ⟨b, 7⟩ 0 r) t = .next u → u.readReg r = s.portByte b a

/-- A byte written to the selected port is the byte the next read of the bank loads: XMIT of eight bits to the bank, then MOVE
of the whole port to a register, if the selected port can be read and written. -/
def Obligations.WriteThenRead : Prop :=
  ∀ (b : Bank) (a v : Byte) (r : Reg) (s t u : State), r.plainDst = true → (s.bank b).sel = some a →
    s.portKind b a = .readWrite → exec (.xmitIv8 b v) s = .next t →
    exec (.moveIvReg ⟨b, 7⟩ 0 r) t = .next u → u.readReg r = v

/-- `SeqNext()`: PC plus one modulo 8192, in PC and AR. The wrap to 0 after 8191 is the spec's decision D2 (log 4). -/
def Obligations.SequenceWraps : Prop :=
  ∀ s : State, s.seqNext.pc.toNat = (s.pc.toNat + 1) % 8192 ∧ s.seqNext.ar = s.seqNext.pc

/-- The five words of Table 5-2, commands to a coprocessor that this machine does not have, decode to moves of a register onto
itself and change nothing but the program addresses and the bus record. That the coprocessor is absent is the spec's
decision D8 (log 19). The statement is about these five words alone. -/
def Obligations.CoprocessorWordsDoNothing : Prop :=
  ∀ (w : Word) (s : State), w ∈ [0x0505, 0x0404, 0x0606, 0x0303, 0x0202] →
    ∃ r : Reg, decodeWord w = .moveRegReg r 0 r ∧
      ∃ t, exec (decodeWord w) s = .next t ∧ (∀ q, t.readReg q = s.readReg q) ∧ s.OutsideSame t ∧
        t.pc = s.seqNext.pc ∧ t.ar = s.seqNext.ar

/-! ## After RESET -/

/-- The one MCLK pulse after RESET. Where a cycle had RESET low and the next has it high, a normal MCLK pulse comes before that
next one, halted or not; between two cycles with RESET high there is none, and none before a cycle with RESET low. Before
the first cycle after `State.reset` the pulse is due. That the pulse belongs to the cycle it precedes, halted ones too, is
read from R220 and R221 (log 27); that RESET takes whole cycles is the spec's decision D9 (log 10). -/
def Obligations.ResumptionPulse : Prop :=
  State.reset.pulseDue = true ∧
  ∀ s t u : State, step s = .next t → step t = .next u →
    (t.resetLow = true → u.bus.pulseBefore = false ∧ u.bus.mclk = false) ∧
    (t.resetLow = false → u.bus.mclk = true ∧ u.bus.pulseBefore = s.resetLow)
end

