-- ==== Sys2Proof/Laws/State.lean ====
section
/-! SUPPORT. Laws/State.lean: what each update of the state leaves in each field, one lemma a field, so that no proof
unfolds an update. -/

namespace Sys2Proof.Machine

/-! ### setReg -/

@[simp] theorem State.setReg_regs (s : State) (r : Reg) (v : Byte) : (s.setReg r v).regs = s.regs.set r v := rfl
@[simp] theorem State.setReg_ovf (s : State) (r : Reg) (v : Byte) : (s.setReg r v).ovf = s.ovf := rfl
@[simp] theorem State.setReg_pc (s : State) (r : Reg) (v : Byte) : (s.setReg r v).pc = s.pc := rfl
@[simp] theorem State.setReg_ar (s : State) (r : Reg) (v : Byte) : (s.setReg r v).ar = s.ar := rfl
@[simp] theorem State.setReg_prog (s : State) (r : Reg) (v : Byte) : (s.setReg r v).prog = s.prog := rfl
@[simp] theorem State.setReg_bus (s : State) (r : Reg) (v : Byte) : (s.setReg r v).bus = s.bus := rfl
@[simp] theorem State.setReg_pulseDue (s : State) (r : Reg) (v : Byte) : (s.setReg r v).pulseDue = s.pulseDue := rfl
@[simp] theorem State.setReg_inputs (s : State) (r : Reg) (v : Byte) : (s.setReg r v).inputs = s.inputs := rfl
@[simp] theorem State.setReg_floats (s : State) (r : Reg) (v : Byte) : (s.setReg r v).floats = s.floats := rfl
@[simp] theorem State.setReg_bank (s : State) (r : Reg) (v : Byte) (c : Bank) :
    (s.setReg r v).bank c = s.bank c := by cases c <;> rfl

/-! ### setAddrs -/

@[simp] theorem State.setAddrs_regs (s : State) (pc ar : ProgAddr) : (s.setAddrs pc ar).regs = s.regs := rfl
@[simp] theorem State.setAddrs_ovf (s : State) (pc ar : ProgAddr) : (s.setAddrs pc ar).ovf = s.ovf := rfl
@[simp] theorem State.setAddrs_pc (s : State) (pc ar : ProgAddr) : (s.setAddrs pc ar).pc = pc := rfl
@[simp] theorem State.setAddrs_ar (s : State) (pc ar : ProgAddr) : (s.setAddrs pc ar).ar = ar := rfl
@[simp] theorem State.setAddrs_prog (s : State) (pc ar : ProgAddr) : (s.setAddrs pc ar).prog = s.prog := rfl
@[simp] theorem State.setAddrs_bus (s : State) (pc ar : ProgAddr) : (s.setAddrs pc ar).bus = s.bus := rfl
@[simp] theorem State.setAddrs_pulseDue (s : State) (pc ar : ProgAddr) :
    (s.setAddrs pc ar).pulseDue = s.pulseDue := rfl
@[simp] theorem State.setAddrs_inputs (s : State) (pc ar : ProgAddr) : (s.setAddrs pc ar).inputs = s.inputs := rfl
@[simp] theorem State.setAddrs_floats (s : State) (pc ar : ProgAddr) : (s.setAddrs pc ar).floats = s.floats := rfl
@[simp] theorem State.setAddrs_bank (s : State) (pc ar : ProgAddr) (c : Bank) :
    (s.setAddrs pc ar).bank c = s.bank c := by cases c <;> rfl

/-! ### setOvf -/

@[simp] theorem State.setOvf_regs (s : State) (o : Bool) : (s.setOvf o).regs = s.regs := rfl
@[simp] theorem State.setOvf_ovf (s : State) (o : Bool) : (s.setOvf o).ovf = o := rfl
@[simp] theorem State.setOvf_pc (s : State) (o : Bool) : (s.setOvf o).pc = s.pc := rfl
@[simp] theorem State.setOvf_ar (s : State) (o : Bool) : (s.setOvf o).ar = s.ar := rfl
@[simp] theorem State.setOvf_prog (s : State) (o : Bool) : (s.setOvf o).prog = s.prog := rfl
@[simp] theorem State.setOvf_bus (s : State) (o : Bool) : (s.setOvf o).bus = s.bus := rfl
@[simp] theorem State.setOvf_pulseDue (s : State) (o : Bool) : (s.setOvf o).pulseDue = s.pulseDue := rfl
@[simp] theorem State.setOvf_inputs (s : State) (o : Bool) : (s.setOvf o).inputs = s.inputs := rfl
@[simp] theorem State.setOvf_floats (s : State) (o : Bool) : (s.setOvf o).floats = s.floats := rfl
@[simp] theorem State.setOvf_bank (s : State) (o : Bool) (c : Bank) :
    (s.setOvf o).bank c = s.bank c := by cases c <;> rfl

/-! ### seqNext -/

@[simp] theorem State.seqNext_regs (s : State) : (s.seqNext).regs = s.regs := rfl
@[simp] theorem State.seqNext_ovf (s : State) : (s.seqNext).ovf = s.ovf := rfl
@[simp] theorem State.seqNext_pc (s : State) : (s.seqNext).pc = s.pc + 1 := rfl
@[simp] theorem State.seqNext_ar (s : State) : (s.seqNext).ar = s.pc + 1 := rfl
@[simp] theorem State.seqNext_prog (s : State) : (s.seqNext).prog = s.prog := rfl
@[simp] theorem State.seqNext_bus (s : State) : (s.seqNext).bus = s.bus := rfl
@[simp] theorem State.seqNext_pulseDue (s : State) : (s.seqNext).pulseDue = s.pulseDue := rfl
@[simp] theorem State.seqNext_inputs (s : State) : (s.seqNext).inputs = s.inputs := rfl
@[simp] theorem State.seqNext_floats (s : State) : (s.seqNext).floats = s.floats := rfl
@[simp] theorem State.seqNext_bank (s : State) (c : Bank) : (s.seqNext).bank c = s.bank c := by cases c <;> rfl

/-! ### branchTo -/

@[simp] theorem State.branchTo_regs (s : State) (a : ProgAddr) : (s.branchTo a).regs = s.regs := rfl
@[simp] theorem State.branchTo_ovf (s : State) (a : ProgAddr) : (s.branchTo a).ovf = s.ovf := rfl
@[simp] theorem State.branchTo_pc (s : State) (a : ProgAddr) : (s.branchTo a).pc = a := rfl
@[simp] theorem State.branchTo_ar (s : State) (a : ProgAddr) : (s.branchTo a).ar = a := rfl
@[simp] theorem State.branchTo_prog (s : State) (a : ProgAddr) : (s.branchTo a).prog = s.prog := rfl
@[simp] theorem State.branchTo_bus (s : State) (a : ProgAddr) : (s.branchTo a).bus = s.bus := rfl
@[simp] theorem State.branchTo_pulseDue (s : State) (a : ProgAddr) : (s.branchTo a).pulseDue = s.pulseDue := rfl
@[simp] theorem State.branchTo_inputs (s : State) (a : ProgAddr) : (s.branchTo a).inputs = s.inputs := rfl
@[simp] theorem State.branchTo_floats (s : State) (a : ProgAddr) : (s.branchTo a).floats = s.floats := rfl
@[simp] theorem State.branchTo_bank (s : State) (a : ProgAddr) (c : Bank) :
    (s.branchTo a).bank c = s.bank c := by cases c <;> rfl

/-! ### executeAt -/

@[simp] theorem State.executeAt_regs (s : State) (a : ProgAddr) : (s.executeAt a).regs = s.regs := rfl
@[simp] theorem State.executeAt_ovf (s : State) (a : ProgAddr) : (s.executeAt a).ovf = s.ovf := rfl
@[simp] theorem State.executeAt_pc (s : State) (a : ProgAddr) : (s.executeAt a).pc = s.pc := rfl
@[simp] theorem State.executeAt_ar (s : State) (a : ProgAddr) : (s.executeAt a).ar = a := rfl
@[simp] theorem State.executeAt_prog (s : State) (a : ProgAddr) : (s.executeAt a).prog = s.prog := rfl
@[simp] theorem State.executeAt_bus (s : State) (a : ProgAddr) : (s.executeAt a).bus = s.bus := rfl
@[simp] theorem State.executeAt_pulseDue (s : State) (a : ProgAddr) : (s.executeAt a).pulseDue = s.pulseDue := rfl
@[simp] theorem State.executeAt_inputs (s : State) (a : ProgAddr) : (s.executeAt a).inputs = s.inputs := rfl
@[simp] theorem State.executeAt_floats (s : State) (a : ProgAddr) : (s.executeAt a).floats = s.floats := rfl
@[simp] theorem State.executeAt_bank (s : State) (a : ProgAddr) (c : Bank) :
    (s.executeAt a).bank c = s.bank c := by cases c <;> rfl

/-! ### beginCycle -/

@[simp] theorem State.beginCycle_regs (s : State) (i : Option (Bank × Byte)) : (s.beginCycle i).regs = s.regs := rfl
@[simp] theorem State.beginCycle_ovf (s : State) (i : Option (Bank × Byte)) : (s.beginCycle i).ovf = s.ovf := rfl
@[simp] theorem State.beginCycle_pc (s : State) (i : Option (Bank × Byte)) : (s.beginCycle i).pc = s.pc := rfl
@[simp] theorem State.beginCycle_ar (s : State) (i : Option (Bank × Byte)) : (s.beginCycle i).ar = s.ar := rfl
@[simp] theorem State.beginCycle_prog (s : State) (i : Option (Bank × Byte)) : (s.beginCycle i).prog = s.prog := rfl
@[simp] theorem State.beginCycle_bus (s : State) (i : Option (Bank × Byte)) :
    (s.beginCycle i).bus =
      { input := i, output := none, mclk := true, pulseBefore := s.pulseDue } := rfl
@[simp] theorem State.beginCycle_pulseDue (s : State) (i : Option (Bank × Byte)) :
    (s.beginCycle i).pulseDue = false := rfl
@[simp] theorem State.beginCycle_inputs (s : State) (i : Option (Bank × Byte)) :
    (s.beginCycle i).inputs = s.inputs := rfl
@[simp] theorem State.beginCycle_floats (s : State) (i : Option (Bank × Byte)) :
    (s.beginCycle i).floats = s.floats := rfl
@[simp] theorem State.beginCycle_bank (s : State) (i : Option (Bank × Byte)) (c : Bank) :
    (s.beginCycle i).bank c = s.bank c := by cases c <;> rfl

/-! ### noRead -/

@[simp] theorem State.noRead_regs (s : State) : (s.noRead).regs = s.regs := rfl
@[simp] theorem State.noRead_ovf (s : State) : (s.noRead).ovf = s.ovf := rfl
@[simp] theorem State.noRead_pc (s : State) : (s.noRead).pc = s.pc := rfl
@[simp] theorem State.noRead_ar (s : State) : (s.noRead).ar = s.ar := rfl
@[simp] theorem State.noRead_prog (s : State) : (s.noRead).prog = s.prog := rfl
@[simp] theorem State.noRead_bus (s : State) :
    (s.noRead).bus =
      { input := none, output := none, mclk := true, pulseBefore := s.pulseDue } := rfl
@[simp] theorem State.noRead_pulseDue (s : State) : (s.noRead).pulseDue = false := rfl
@[simp] theorem State.noRead_inputs (s : State) : (s.noRead).inputs = s.inputs := rfl
@[simp] theorem State.noRead_floats (s : State) : (s.noRead).floats = s.floats := rfl
@[simp] theorem State.noRead_bank (s : State) (c : Bank) : (s.noRead).bank c = s.bank c := by cases c <;> rfl

/-! ### ivRead -/

@[simp] theorem State.ivRead_regs (s : State) (b : Bank) : (s.ivRead b).regs = s.regs := rfl
@[simp] theorem State.ivRead_ovf (s : State) (b : Bank) : (s.ivRead b).ovf = s.ovf := rfl
@[simp] theorem State.ivRead_pc (s : State) (b : Bank) : (s.ivRead b).pc = s.pc := rfl
@[simp] theorem State.ivRead_ar (s : State) (b : Bank) : (s.ivRead b).ar = s.ar := rfl
@[simp] theorem State.ivRead_prog (s : State) (b : Bank) : (s.ivRead b).prog = s.prog := rfl
@[simp] theorem State.ivRead_bus (s : State) (b : Bank) :
    (s.ivRead b).bus =
      { input := some (b, s.latchByte b), output := none, mclk := true, pulseBefore := s.pulseDue } := rfl
@[simp] theorem State.ivRead_pulseDue (s : State) (b : Bank) : (s.ivRead b).pulseDue = false := rfl
@[simp] theorem State.ivRead_inputs (s : State) (b : Bank) : (s.ivRead b).inputs = s.inputs := rfl
@[simp] theorem State.ivRead_floats (s : State) (b : Bank) :
    (s.ivRead b).floats =
      match s.driven b with | some _ => s.floats | none => s.floats + 1 := rfl
@[simp] theorem State.ivRead_bank (s : State) (b : Bank) (c : Bank) :
    (s.ivRead b).bank c = s.bank c := by cases c <;> rfl

/-! ### drive -/

@[simp] theorem State.drive_regs (s : State) (o : BusOutput) : (s.drive o).regs = s.regs := rfl
@[simp] theorem State.drive_ovf (s : State) (o : BusOutput) : (s.drive o).ovf = s.ovf := rfl
@[simp] theorem State.drive_pc (s : State) (o : BusOutput) : (s.drive o).pc = s.pc := rfl
@[simp] theorem State.drive_ar (s : State) (o : BusOutput) : (s.drive o).ar = s.ar := rfl
@[simp] theorem State.drive_prog (s : State) (o : BusOutput) : (s.drive o).prog = s.prog := rfl
@[simp] theorem State.drive_bus (s : State) (o : BusOutput) : (s.drive o).bus = { s.bus with output := some o } := rfl
@[simp] theorem State.drive_pulseDue (s : State) (o : BusOutput) : (s.drive o).pulseDue = s.pulseDue := rfl
@[simp] theorem State.drive_inputs (s : State) (o : BusOutput) : (s.drive o).inputs = s.inputs := rfl
@[simp] theorem State.drive_floats (s : State) (o : BusOutput) : (s.drive o).floats = s.floats := rfl
@[simp] theorem State.drive_bank (s : State) (o : BusOutput) (c : Bank) :
    (s.drive o).bank c = s.bank c := by cases c <;> rfl

/-! ### aluFlags -/

@[simp] theorem State.aluFlags_regs (s : State) (op : AluOp) (a : Byte) : (s.aluFlags op a).regs = s.regs := rfl
@[simp] theorem State.aluFlags_ovf (s : State) (op : AluOp) (a : Byte) :
    (s.aluFlags op a).ovf = aluOvf op a s.regs.r0 s.ovf := rfl
@[simp] theorem State.aluFlags_pc (s : State) (op : AluOp) (a : Byte) : (s.aluFlags op a).pc = s.pc := rfl
@[simp] theorem State.aluFlags_ar (s : State) (op : AluOp) (a : Byte) : (s.aluFlags op a).ar = s.ar := rfl
@[simp] theorem State.aluFlags_prog (s : State) (op : AluOp) (a : Byte) : (s.aluFlags op a).prog = s.prog := rfl
@[simp] theorem State.aluFlags_bus (s : State) (op : AluOp) (a : Byte) : (s.aluFlags op a).bus = s.bus := rfl
@[simp] theorem State.aluFlags_pulseDue (s : State) (op : AluOp) (a : Byte) :
    (s.aluFlags op a).pulseDue = s.pulseDue := rfl
@[simp] theorem State.aluFlags_inputs (s : State) (op : AluOp) (a : Byte) : (s.aluFlags op a).inputs = s.inputs := rfl
@[simp] theorem State.aluFlags_floats (s : State) (op : AluOp) (a : Byte) : (s.aluFlags op a).floats = s.floats := rfl
@[simp] theorem State.aluFlags_bank (s : State) (op : AluOp) (a : Byte) (c : Bank) :
    (s.aluFlags op a).bank c = s.bank c := by cases c <;> rfl

/-! ### loadWord -/

@[simp] theorem State.loadWord_regs (s : State) (a : ProgAddr) (x : Word) : (s.loadWord a x).regs = s.regs := rfl
@[simp] theorem State.loadWord_ovf (s : State) (a : ProgAddr) (x : Word) : (s.loadWord a x).ovf = s.ovf := rfl
@[simp] theorem State.loadWord_pc (s : State) (a : ProgAddr) (x : Word) : (s.loadWord a x).pc = s.pc := rfl
@[simp] theorem State.loadWord_ar (s : State) (a : ProgAddr) (x : Word) : (s.loadWord a x).ar = s.ar := rfl
@[simp] theorem State.loadWord_prog (s : State) (a : ProgAddr) (x : Word) :
    (s.loadWord a x).prog =
      (s.prog.write (2 * a.toNat) (x.extractLsb' 8 8)).write (2 * a.toNat + 1) (x.extractLsb' 0 8) := rfl
@[simp] theorem State.loadWord_bus (s : State) (a : ProgAddr) (x : Word) : (s.loadWord a x).bus = s.bus := rfl
@[simp] theorem State.loadWord_pulseDue (s : State) (a : ProgAddr) (x : Word) :
    (s.loadWord a x).pulseDue = s.pulseDue := rfl
@[simp] theorem State.loadWord_inputs (s : State) (a : ProgAddr) (x : Word) :
    (s.loadWord a x).inputs = s.inputs := rfl
@[simp] theorem State.loadWord_floats (s : State) (a : ProgAddr) (x : Word) :
    (s.loadWord a x).floats = s.floats := rfl
@[simp] theorem State.loadWord_bank (s : State) (a : ProgAddr) (x : Word) (c : Bank) :
    (s.loadWord a x).bank c = s.bank c := by cases c <;> rfl

/-! ### setBank -/

@[simp] theorem State.setBank_regs (s : State) (b : Bank) (k : BankState) :
    (s.setBank b k).regs = s.regs := by cases b <;> rfl
@[simp] theorem State.setBank_ovf (s : State) (b : Bank) (k : BankState) :
    (s.setBank b k).ovf = s.ovf := by cases b <;> rfl
@[simp] theorem State.setBank_pc (s : State) (b : Bank) (k : BankState) :
    (s.setBank b k).pc = s.pc := by cases b <;> rfl
@[simp] theorem State.setBank_ar (s : State) (b : Bank) (k : BankState) :
    (s.setBank b k).ar = s.ar := by cases b <;> rfl
@[simp] theorem State.setBank_prog (s : State) (b : Bank) (k : BankState) :
    (s.setBank b k).prog = s.prog := by cases b <;> rfl
@[simp] theorem State.setBank_bus (s : State) (b : Bank) (k : BankState) :
    (s.setBank b k).bus = s.bus := by cases b <;> rfl
@[simp] theorem State.setBank_pulseDue (s : State) (b : Bank) (k : BankState) :
    (s.setBank b k).pulseDue = s.pulseDue := by cases b <;> rfl
@[simp] theorem State.setBank_inputs (s : State) (b : Bank) (k : BankState) :
    (s.setBank b k).inputs = s.inputs := by cases b <;> rfl
@[simp] theorem State.setBank_floats (s : State) (b : Bank) (k : BankState) :
    (s.setBank b k).floats = s.floats := by cases b <;> rfl

/-! ### setPort -/

@[simp] theorem State.setPort_regs (s : State) (b : Bank) (a v : Byte) :
    (s.setPort b a v).regs = s.regs := by cases b <;> rfl
@[simp] theorem State.setPort_ovf (s : State) (b : Bank) (a v : Byte) :
    (s.setPort b a v).ovf = s.ovf := by cases b <;> rfl
@[simp] theorem State.setPort_pc (s : State) (b : Bank) (a v : Byte) :
    (s.setPort b a v).pc = s.pc := by cases b <;> rfl
@[simp] theorem State.setPort_ar (s : State) (b : Bank) (a v : Byte) :
    (s.setPort b a v).ar = s.ar := by cases b <;> rfl
@[simp] theorem State.setPort_prog (s : State) (b : Bank) (a v : Byte) :
    (s.setPort b a v).prog = s.prog := by cases b <;> rfl
@[simp] theorem State.setPort_bus (s : State) (b : Bank) (a v : Byte) :
    (s.setPort b a v).bus = s.bus := by cases b <;> rfl
@[simp] theorem State.setPort_pulseDue (s : State) (b : Bank) (a v : Byte) :
    (s.setPort b a v).pulseDue = s.pulseDue := by cases b <;> rfl
@[simp] theorem State.setPort_inputs (s : State) (b : Bank) (a v : Byte) :
    (s.setPort b a v).inputs = s.inputs := by cases b <;> rfl
@[simp] theorem State.setPort_floats (s : State) (b : Bank) (a v : Byte) :
    (s.setPort b a v).floats = s.floats := by cases b <;> rfl

/-! ### portTakes -/

@[simp] theorem State.portTakes_regs (s : State) (b : Bank) (v : Byte) :
    (s.portTakes b v).regs = s.regs := by unfold State.portTakes; split <;> simp
@[simp] theorem State.portTakes_ovf (s : State) (b : Bank) (v : Byte) :
    (s.portTakes b v).ovf = s.ovf := by unfold State.portTakes; split <;> simp
@[simp] theorem State.portTakes_pc (s : State) (b : Bank) (v : Byte) :
    (s.portTakes b v).pc = s.pc := by unfold State.portTakes; split <;> simp
@[simp] theorem State.portTakes_ar (s : State) (b : Bank) (v : Byte) :
    (s.portTakes b v).ar = s.ar := by unfold State.portTakes; split <;> simp
@[simp] theorem State.portTakes_prog (s : State) (b : Bank) (v : Byte) :
    (s.portTakes b v).prog = s.prog := by unfold State.portTakes; split <;> simp
@[simp] theorem State.portTakes_bus (s : State) (b : Bank) (v : Byte) :
    (s.portTakes b v).bus = s.bus := by unfold State.portTakes; split <;> simp
@[simp] theorem State.portTakes_pulseDue (s : State) (b : Bank) (v : Byte) :
    (s.portTakes b v).pulseDue = s.pulseDue := by unfold State.portTakes; split <;> simp
@[simp] theorem State.portTakes_inputs (s : State) (b : Bank) (v : Byte) :
    (s.portTakes b v).inputs = s.inputs := by unfold State.portTakes; split <;> simp
@[simp] theorem State.portTakes_floats (s : State) (b : Bank) (v : Byte) :
    (s.portTakes b v).floats = s.floats := by unfold State.portTakes; split <;> simp

/-! ### ivWrite -/

@[simp] theorem State.ivWrite_regs (s : State) (b : Bank) (v : Byte) :
    (s.ivWrite b v).regs = s.regs := by simp [State.ivWrite]
@[simp] theorem State.ivWrite_ovf (s : State) (b : Bank) (v : Byte) :
    (s.ivWrite b v).ovf = s.ovf := by simp [State.ivWrite]
@[simp] theorem State.ivWrite_pc (s : State) (b : Bank) (v : Byte) :
    (s.ivWrite b v).pc = s.pc := by simp [State.ivWrite]
@[simp] theorem State.ivWrite_ar (s : State) (b : Bank) (v : Byte) :
    (s.ivWrite b v).ar = s.ar := by simp [State.ivWrite]
@[simp] theorem State.ivWrite_prog (s : State) (b : Bank) (v : Byte) :
    (s.ivWrite b v).prog = s.prog := by simp [State.ivWrite]
@[simp] theorem State.ivWrite_bus (s : State) (b : Bank) (v : Byte) :
    (s.ivWrite b v).bus = { s.bus with output := some (.write b v) } := by simp [State.ivWrite]
@[simp] theorem State.ivWrite_pulseDue (s : State) (b : Bank) (v : Byte) :
    (s.ivWrite b v).pulseDue = s.pulseDue := by simp [State.ivWrite]
@[simp] theorem State.ivWrite_inputs (s : State) (b : Bank) (v : Byte) :
    (s.ivWrite b v).inputs = s.inputs := by simp [State.ivWrite]
@[simp] theorem State.ivWrite_floats (s : State) (b : Bank) (v : Byte) :
    (s.ivWrite b v).floats = s.floats := by simp [State.ivWrite]

/-! ### ivSelect -/

@[simp] theorem State.ivSelect_regs (s : State) (b : Bank) (a : Byte) :
    (s.ivSelect b a).regs = s.regs := by simp [State.ivSelect]
@[simp] theorem State.ivSelect_ovf (s : State) (b : Bank) (a : Byte) :
    (s.ivSelect b a).ovf = s.ovf := by simp [State.ivSelect]
@[simp] theorem State.ivSelect_pc (s : State) (b : Bank) (a : Byte) :
    (s.ivSelect b a).pc = s.pc := by simp [State.ivSelect]
@[simp] theorem State.ivSelect_ar (s : State) (b : Bank) (a : Byte) :
    (s.ivSelect b a).ar = s.ar := by simp [State.ivSelect]
@[simp] theorem State.ivSelect_prog (s : State) (b : Bank) (a : Byte) :
    (s.ivSelect b a).prog = s.prog := by simp [State.ivSelect]
@[simp] theorem State.ivSelect_bus (s : State) (b : Bank) (a : Byte) :
    (s.ivSelect b a).bus = { s.bus with output := some (.select b a) } := by simp [State.ivSelect]
@[simp] theorem State.ivSelect_pulseDue (s : State) (b : Bank) (a : Byte) :
    (s.ivSelect b a).pulseDue = s.pulseDue := by simp [State.ivSelect]
@[simp] theorem State.ivSelect_inputs (s : State) (b : Bank) (a : Byte) :
    (s.ivSelect b a).inputs = s.inputs := by simp [State.ivSelect]
@[simp] theorem State.ivSelect_floats (s : State) (b : Bank) (a : Byte) :
    (s.ivSelect b a).floats = s.floats := by simp [State.ivSelect]

/-! ### The banks -/

@[simp] theorem State.setBank_bank_self (s : State) (b : Bank) (k : BankState) : (s.setBank b k).bank b = k := by
  cases b <;> rfl

theorem State.setBank_bank (s : State) (b c : Bank) (k : BankState) :
    (s.setBank b k).bank c = if c = b then k else s.bank c := by
  cases b <;> cases c <;> rfl

theorem State.setPort_bank (s : State) (b c : Bank) (a v : Byte) :
    (s.setPort b a v).bank c =
      if c = b then { s.bank b with ports := (s.bank b).ports.write a.toNat v } else s.bank c :=
  State.setBank_bank s b c _

@[simp] theorem State.setPort_sel (s : State) (b c : Bank) (a v : Byte) :
    ((s.setPort b a v).bank c).sel = (s.bank c).sel := by
  rw [State.setPort_bank]; split <;> simp_all

@[simp] theorem State.setPort_kinds (s : State) (b c : Bank) (a v : Byte) :
    ((s.setPort b a v).bank c).kinds = (s.bank c).kinds := by
  rw [State.setPort_bank]; split <;> simp_all

@[simp] theorem State.portTakes_sel (s : State) (b c : Bank) (v : Byte) :
    ((s.portTakes b v).bank c).sel = (s.bank c).sel := by
  unfold State.portTakes; split <;> simp

@[simp] theorem State.portTakes_kinds (s : State) (b c : Bank) (v : Byte) :
    ((s.portTakes b v).bank c).kinds = (s.bank c).kinds := by
  unfold State.portTakes; split <;> simp

@[simp] theorem State.ivWrite_sel (s : State) (b c : Bank) (v : Byte) :
    ((s.ivWrite b v).bank c).sel = (s.bank c).sel := by
  simp [State.ivWrite]

@[simp] theorem State.ivWrite_kinds (s : State) (b c : Bank) (v : Byte) :
    ((s.ivWrite b v).bank c).kinds = (s.bank c).kinds := by
  simp [State.ivWrite]

theorem State.ivSelect_bank (s : State) (b c : Bank) (a : Byte) :
    (s.ivSelect b a).bank c = if c = b then { s.bank b with sel := s.selected b a } else s.bank c := by
  simp [State.ivSelect, State.setBank_bank]

@[simp] theorem State.ivSelect_kinds (s : State) (b c : Bank) (a : Byte) :
    ((s.ivSelect b a).bank c).kinds = (s.bank c).kinds := by
  rw [State.ivSelect_bank]; split <;> simp_all

/-! ### What a register read, a port's kind and the driven byte depend on -/

theorem State.readReg_congr {s t : State} (hr : t.regs = s.regs) (ho : t.ovf = s.ovf) (r : Reg) :
    t.readReg r = s.readReg r := by
  cases r <;> simp [State.readReg, hr, ho]

@[simp] theorem State.readReg_setAddrs (s : State) (pc ar : ProgAddr) (r : Reg) :
    (s.setAddrs pc ar).readReg r = s.readReg r := State.readReg_congr rfl rfl r

@[simp] theorem State.readReg_seqNext (s : State) (r : Reg) : s.seqNext.readReg r = s.readReg r :=
  State.readReg_congr rfl rfl r

@[simp] theorem State.readReg_beginCycle (s : State) (i : Option (Bank × Byte)) (r : Reg) :
    (s.beginCycle i).readReg r = s.readReg r := State.readReg_congr rfl rfl r

@[simp] theorem State.readReg_noRead (s : State) (r : Reg) : s.noRead.readReg r = s.readReg r :=
  State.readReg_congr rfl rfl r

@[simp] theorem State.readReg_ivRead (s : State) (b : Bank) (r : Reg) : (s.ivRead b).readReg r = s.readReg r :=
  State.readReg_congr rfl rfl r

@[simp] theorem State.readReg_ivWrite (s : State) (b : Bank) (v : Byte) (r : Reg) :
    (s.ivWrite b v).readReg r = s.readReg r := State.readReg_congr (by simp) (by simp) r

@[simp] theorem State.readReg_ivSelect (s : State) (b : Bank) (a : Byte) (r : Reg) :
    (s.ivSelect b a).readReg r = s.readReg r := State.readReg_congr (by simp) (by simp) r

/-- OVF is in R10 and in no other register. -/
theorem State.readReg_setOvf (s : State) (o : Bool) {r : Reg} (h : r ≠ .r10) :
    (s.setOvf o).readReg r = s.readReg r := by
  cases r <;> first | rfl | exact absurd rfl h

/-- A stored register reads as the value, every other one as before. -/
theorem State.readReg_setReg (s : State) (r q : Reg) (v : Byte) (h : r ≠ .r10) :
    (s.setReg r v).readReg q = if q = r then v else s.readReg q := by
  cases r <;> first | exact absurd rfl h | (cases q <;> rfl)

theorem State.portKind_congr {s t : State} {b : Bank} (h : (t.bank b).kinds = (s.bank b).kinds) (a : Byte) :
    t.portKind b a = s.portKind b a := by
  simp [State.portKind, h]

theorem State.portByte_congr {s t : State} {b : Bank} (h : (t.bank b).ports = (s.bank b).ports) (a : Byte) :
    t.portByte b a = s.portByte b a := by
  simp [State.portByte, h]

theorem State.progByte_congr {s t : State} (h : t.prog = s.prog) (n : Nat) : t.progByte n = s.progByte n := by
  simp [State.progByte, h]

theorem State.writeTarget_congr {s t : State} {b : Bank} (h : t.bank b = s.bank b) :
    t.writeTarget b = s.writeTarget b := by
  unfold State.writeTarget State.portKind; rw [h]

theorem State.selected_congr {s t : State} {b : Bank} (h : t.bank b = s.bank b) (a : Byte) :
    t.selected b a = s.selected b a := by
  unfold State.selected State.portKind; rw [h]

end Sys2Proof.Machine
end

