-- ==== Sys2Proof/Laws/Encoding.lean ====
section
/-! SUPPORT. Laws/Encoding.lean: taking a field out of joined bits, and register, bank and operand fields read back. -/

namespace Sys2Proof

/-! ### Fields of joined bits -/

/-- The upper part of joined bits. -/
theorem extract_append_hi {m n : Nat} (x : BitVec m) (y : BitVec n) : (x ++ y).extractLsb' n m = x := by
  ext i h
  simp [BitVec.getElem_extractLsb', BitVec.getLsbD_append, BitVec.getLsbD_eq_getElem h]

/-- A field inside the upper part. -/
theorem extract_append_of_ge {m n st len : Nat} (x : BitVec m) (y : BitVec n) :
    (x ++ y).extractLsb' (n + st) len = x.extractLsb' st len := by
  ext i h
  have : ¬ (n + st + i < n) := by omega
  rw [BitVec.getElem_extractLsb', BitVec.getElem_extractLsb', BitVec.getLsbD_append, if_neg this,
    show n + st + i - n = st + i by omega]

/-- A field inside the lower part. -/
theorem extract_append_of_le {m n st len : Nat} (x : BitVec m) (y : BitVec n) (hle : st + len ≤ n) :
    (x ++ y).extractLsb' st len = y.extractLsb' st len := by
  ext i h
  have : st + i < n := by omega
  simp [BitVec.getElem_extractLsb', BitVec.getLsbD_append, this]

theorem extract_self {n : Nat} (x : BitVec n) : x.extractLsb' 0 n = x := by
  simp

/-! ### Registers, banks, operands -/

@[simp] theorem regOfBits_toBits (r : Reg) : Reg.ofBits r.toBits = r := by cases r <;> rfl

theorem regToBits_ofBits (b : BitVec 4) : (Reg.ofBits b).toBits = b := by revert b; decide

@[simp] theorem bankOfBit_toBit (b : Bank) : Bank.ofBit b.toBit = b := by cases b <;> rfl

theorem bankToBit_ofBit (b : BitVec 1) : (Bank.ofBit b).toBit = b := by revert b; decide

@[simp] theorem regOfField_toField (r : Reg) : regOfField r.toField = r := by cases r <;> rfl

@[simp] theorem ivOfField_toField (f : IvField) : ivOfField f.toField = f := by
  obtain ⟨b, p⟩ := f; revert p; cases b <;> decide

@[simp] theorem fieldIsIv_regField (r : Reg) : fieldIsIv r.toField = false := by cases r <;> rfl

@[simp] theorem fieldIsIv_ivField (f : IvField) : fieldIsIv f.toField = true := by
  obtain ⟨b, p⟩ := f; revert p; cases b <;> decide

theorem regField_of_not_iv {d : BitVec 5} (h : fieldIsIv d = false) : (regOfField d).toField = d := by
  revert d; decide

theorem ivField_of_iv {d : BitVec 5} (h : fieldIsIv d = true) : (ivOfField d).toField = d := by
  revert d; decide

/-! ### The word of its fields -/

theorem reg_of_field {d : BitVec 5} (h : ¬fieldIsIv d = true) : (regOfField d).toField = d :=
  regField_of_not_iv (by simpa using h)

/-- Two fields that lie side by side, joined, are the field of both. -/
theorem extract_join {k : Nat} (w : BitVec k) (st m n : Nat) :
    w.extractLsb' (st + n) m ++ w.extractLsb' st n = w.extractLsb' st (m + n) := by
  ext i hi
  simp only [BitVec.getElem_append, BitVec.getElem_extractLsb']
  split_ifs
  · rfl
  · rw [show st + n + (i - n) = st + i by omega]

/-- Every word is its operation code, its S (or XMIT's D) field, its R/L field and its D (or 5-bit J) field, joined. -/
theorem word_fields (w : Word) :
    w = w.extractLsb' 13 3 ++ (w.extractLsb' 8 5 ++ (w.extractLsb' 5 3 ++ w.extractLsb' 0 5 : BitVec 8) : BitVec 13) := by
  rw [show (w.extractLsb' 5 3 ++ w.extractLsb' 0 5 : BitVec 8) = _ from extract_join w 0 3 5,
    show (w.extractLsb' 8 5 ++ w.extractLsb' 0 (3 + 5) : BitVec 13) = _ from extract_join w 0 5 8]
  exact ((extract_join w 0 3 13).trans (extract_self w)).symm

theorem field_op (o : BitVec 3) (x : BitVec 13) : (o ++ x : BitVec 16).extractLsb' 13 3 = o :=
  extract_append_hi (m := 3) (n := 13) o x

theorem field_lo13 (o : BitVec 3) (x : BitVec 13) : (o ++ x : BitVec 16).extractLsb' 0 13 = x := by
  rw [extract_append_of_le (m := 3) (n := 13) _ _ (by omega), extract_self]

theorem field_hi5 (o : BitVec 3) (a : BitVec 5) (y : BitVec 8) :
    (o ++ (a ++ y : BitVec 13) : BitVec 16).extractLsb' 8 5 = a := by
  rw [extract_append_of_le (m := 3) (n := 13) _ _ (by omega), extract_append_hi (m := 5) (n := 8)]

theorem field_lo8 (o : BitVec 3) (a : BitVec 5) (y : BitVec 8) :
    (o ++ (a ++ y : BitVec 13) : BitVec 16).extractLsb' 0 8 = y := by
  rw [extract_append_of_le (m := 3) (n := 13) _ _ (by omega), extract_append_of_le (m := 5) (n := 8) _ _ (by omega),
    extract_self]

theorem field_mid3 (o : BitVec 3) (a : BitVec 5) (b : BitVec 3) (c : BitVec 5) :
    (o ++ (a ++ (b ++ c : BitVec 8) : BitVec 13) : BitVec 16).extractLsb' 5 3 = b := by
  rw [extract_append_of_le (m := 3) (n := 13) _ _ (by omega), extract_append_of_le (m := 5) (n := 8) _ _ (by omega),
    extract_append_hi (m := 3) (n := 5)]

theorem field_lo5 (o : BitVec 3) (a : BitVec 5) (b : BitVec 3) (c : BitVec 5) :
    (o ++ (a ++ (b ++ c : BitVec 8) : BitVec 13) : BitVec 16).extractLsb' 0 5 = c := by
  rw [extract_append_of_le (m := 3) (n := 13) _ _ (by omega), extract_append_of_le (m := 5) (n := 8) _ _ (by omega),
    extract_append_of_le (m := 3) (n := 5) _ _ (by omega), extract_self]

/-- The decoding of a word written as operation code, S, R/L and D. -/
theorem decodeWord_fields (o : BitVec 3) (a : BitVec 5) (b : BitVec 3) (c : BitVec 5) :
    decodeWord (o ++ (a ++ (b ++ c : BitVec 8) : BitVec 13)) =
      decodeFields o a b c (b ++ c : BitVec 8) (a ++ (b ++ c : BitVec 8) : BitVec 13) := by
  unfold decodeWord
  congr 1
  · exact field_op _ _
  · exact field_hi5 _ _ _
  · exact field_mid3 _ _ _ _
  · exact field_lo5 _ _ _ _
  · exact field_lo8 _ _ _
  · exact field_lo13 _ _

/-- The decoding of a word written as operation code, S (or XMIT's D) and an 8-bit J. -/
theorem decodeWord_fields8 (o : BitVec 3) (a : BitVec 5) (j : BitVec 8) :
    decodeWord (o ++ (a ++ j : BitVec 13)) =
      decodeFields o a (j.extractLsb' 5 3) (j.extractLsb' 0 5) j (a ++ j : BitVec 13) := by
  unfold decodeWord
  congr 1
  · exact field_op _ _
  · exact field_hi5 _ _ _
  · exact (extract_append_of_le (m := 3) (n := 13) _ _ (by omega)).trans
      (extract_append_of_le (m := 5) (n := 8) _ _ (by omega))
  · exact (extract_append_of_le (m := 3) (n := 13) _ _ (by omega)).trans
      (extract_append_of_le (m := 5) (n := 8) _ _ (by omega))
  · exact field_lo8 _ _ _
  · exact field_lo13 _ _

/-- The decoding of a word written as operation code and thirteen bits. -/
theorem decodeWord_fields13 (o : BitVec 3) (x : BitVec 13) :
    decodeWord (o ++ x) =
      decodeFields o (x.extractLsb' 8 5) (x.extractLsb' 5 3) (x.extractLsb' 0 5) (x.extractLsb' 0 8) x := by
  unfold decodeWord
  congr 1
  · exact field_op _ _
  · exact extract_append_of_le (m := 3) (n := 13) _ _ (by omega)
  · exact extract_append_of_le (m := 3) (n := 13) _ _ (by omega)
  · exact extract_append_of_le (m := 3) (n := 13) _ _ (by omega)
  · exact extract_append_of_le (m := 3) (n := 13) _ _ (by omega)
  · exact field_lo13 _ _

/-- The instruction of an ALU class is well-formed where its form is. -/
theorem ofAlu_wellFormed (op : AluOp) (f : AluForm) : (Instr.ofAlu op f).wellFormed = f.wellFormed := by
  cases op <;> cases f <;> rfl

/-- The word of an instruction of an ALU class. -/
theorem encodeWord_ofAlu (op : AluOp) (f : AluForm) : encodeWord (Instr.ofAlu op f) = encodeAluWord op f := by
  cases op <;> cases f <;> rfl

end Sys2Proof
end

