-- ==== Sys2Proof/Laws/Memory.lean ====
section
/-! SUPPORT. Laws/Memory.lean: read after write, and the canonical form, for memories and for the ports and program storage
held in them. -/

namespace Sys2Proof.Machine

/-- A write is seen at its address and nowhere else. -/
theorem Memory.read_write (m : Memory) (a b : Nat) (v : Byte) :
    (Memory.write m a v).read b = if b = a then some v else m.read b := by
  induction m with
  | nil => rfl
  | cons e m ih =>
    obtain ⟨k, x⟩ := e
    simp only [Memory.write]
    split_ifs with h1 h2 h3 <;> simp_all [Memory.read]

theorem Memory.wfFrom_mono {hi lo lo' : Nat} {m : Memory} (hle : lo' ≤ lo) (h : m.wfFrom hi lo = true) :
    m.wfFrom hi lo' = true := by
  cases m with
  | nil => rfl
  | cons e m => simp_all [Memory.wfFrom]; omega

/-- A write at an address in range keeps the form. -/
theorem Memory.wfFrom_write {hi lo a : Nat} {m : Memory} {v : Byte} (hm : m.wfFrom hi lo = true) (hlo : lo ≤ a)
    (hhi : a < hi) : (Memory.write m a v).wfFrom hi lo = true := by
  induction m generalizing lo with
  | nil => simp [Memory.write, Memory.wfFrom, hlo, hhi]
  | cons e m ih =>
    obtain ⟨k, x⟩ := e
    simp only [Memory.wfFrom, Bool.and_eq_true, decide_eq_true_eq] at hm
    obtain ⟨⟨h1, h2⟩, h3⟩ := hm
    simp only [Memory.write]
    split_ifs with c1 c2
    · simp [Memory.wfFrom, hlo, hhi, h2, h3]; omega
    · subst c2; simp [Memory.wfFrom, hlo, hhi, h3]
    · simp [Memory.wfFrom, h1, h2, ih h3 (by omega)]

/-- Every write to an address that exists keeps a memory canonical. -/
theorem Memory.wf_write {hi a : Nat} {m : Memory} (v : Byte) (hm : m.wf hi = true) (h : a < hi) :
    (Memory.write m a v).wf hi = true :=
  Memory.wfFrom_write hm (Nat.zero_le a) h

/-! ### Ports -/

/-- A port set reads as the byte given, every other port as before. -/
theorem State.setPort_portByte (s : State) (b c : Bank) (a x v : Byte) :
    (s.setPort b a v).portByte c x = if c = b ∧ x = a then v else s.portByte c x := by
  unfold State.portByte
  rw [State.setPort_bank]
  by_cases hc : c = b
  · subst hc
    by_cases hx : x = a
    · simp [Memory.read_write, hx]
    · have : x.toNat ≠ a.toNat := fun h => hx (BitVec.eq_of_toNat_eq h)
      simp [Memory.read_write, hx, this]
  · simp [hc]

/-- The one port a byte written to a bank reaches. -/
theorem State.portTakes_portByte (s : State) (b c : Bank) (x v : Byte) :
    (s.portTakes b v).portByte c x = if c = b ∧ s.writeTarget b = some x then v else s.portByte c x := by
  unfold State.portTakes
  split
  · simp_all
  · rename_i a h
    rw [State.setPort_portByte, h]
    simp [eq_comm]

theorem State.drive_portByte (s : State) (o : BusOutput) (c : Bank) (x : Byte) :
    (s.drive o).portByte c x = s.portByte c x :=
  State.portByte_congr (by simp) x

theorem State.ivWrite_portByte (s : State) (b c : Bank) (x v : Byte) :
    (s.ivWrite b v).portByte c x = if c = b ∧ s.writeTarget b = some x then v else s.portByte c x := by
  rw [State.ivWrite, State.drive_portByte, State.portTakes_portByte]

theorem State.ivSelect_portByte (s : State) (b c : Bank) (a x : Byte) :
    (s.ivSelect b a).portByte c x = s.portByte c x := by
  refine State.portByte_congr ?_ x
  rw [State.ivSelect_bank]
  split <;> simp_all

@[simp] theorem State.setAddrs_portByte (s : State) (pc ar : ProgAddr) (b : Bank) (x : Byte) :
    (s.setAddrs pc ar).portByte b x = s.portByte b x := State.portByte_congr (by simp) x

@[simp] theorem State.seqNext_portByte (s : State) (b : Bank) (x : Byte) :
    s.seqNext.portByte b x = s.portByte b x := State.portByte_congr (by simp) x

@[simp] theorem State.setOvf_portByte (s : State) (o : Bool) (b : Bank) (x : Byte) :
    (s.setOvf o).portByte b x = s.portByte b x := State.portByte_congr (by simp) x

@[simp] theorem State.setReg_portByte (s : State) (r : Reg) (v : Byte) (b : Bank) (x : Byte) :
    (s.setReg r v).portByte b x = s.portByte b x := State.portByte_congr (by simp) x

@[simp] theorem State.noRead_portByte (s : State) (b : Bank) (x : Byte) :
    s.noRead.portByte b x = s.portByte b x := State.portByte_congr (by simp) x

@[simp] theorem State.ivRead_portByte (s : State) (c b : Bank) (x : Byte) :
    (s.ivRead c).portByte b x = s.portByte b x := State.portByte_congr (by simp) x

/-! ### Program storage -/

/-- A word is its more significant byte and its less significant byte. -/
theorem word_of_bytes (x : Word) : x.extractLsb' 8 8 ++ x.extractLsb' 0 8 = x := by
  ext i hi
  simp only [BitVec.getElem_append, BitVec.getElem_extractLsb']
  split
  · simp [BitVec.getLsbD_eq_getElem, *]
  · rw [show 8 + (i - 8) = i by omega, BitVec.getLsbD_eq_getElem hi]

/-- A loaded word is the word read at its address. -/
theorem State.loadWord_progWord (s : State) (a : ProgAddr) (x : Word) : (s.loadWord a x).progWord a = x := by
  simp [State.progWord, State.progByte, Memory.read_write, word_of_bytes]

end Sys2Proof.Machine
end

