-- ==== Sys2Proof/Laws/Ops.lean ====
section
/-! SUPPORT. Laws/Ops.lean: for each shared operation, what it answers; for an instruction and for a step, every next state
there can be. -/

namespace Sys2Proof.Machine

/-! ### Registers -/

/-- R10 has nothing to store in. -/
theorem State.setReg_r10 (s : State) (v : Byte) : s.setReg .r10 v = s := rfl

theorem bank_addrReg_ne_r10 (b : Bank) : b.addrReg ≠ .r10 := by cases b <;> simp [Bank.addrReg]

theorem bank_addrReg_injective {b c : Bank} (h : b.addrReg = c.addrReg) : b = c := by
  cases b <;> cases c <;> simp_all [Bank.addrReg]

theorem reg_plainDst_ne_r10 {r : Reg} (h : r.plainDst = true) : r ≠ .r10 := by
  rintro rfl; exact absurd h (by decide)

theorem reg_plainDst_ne_addrReg {r : Reg} (h : r.plainDst = true) (b : Bank) : r ≠ b.addrReg := by
  rintro rfl; revert h; cases b <;> decide

theorem reg_plainDst_of_xmitDst {r : Reg} (h : r.xmitDst = true) : r.plainDst = true := by
  revert h; cases r <;> decide

/-- A register is an ordinary destination, an address register, or R10. -/
theorem reg_dst_cases (r : Reg) : r.plainDst = true ∨ (∃ b : Bank, r = b.addrReg) ∨ r = .r10 := by
  cases r <;> first
    | exact Or.inl rfl
    | exact Or.inr (Or.inl ⟨.left, rfl⟩)
    | exact Or.inr (Or.inl ⟨.right, rfl⟩)
    | exact Or.inr (Or.inr rfl)

theorem writeReg_plain {r : Reg} (v : Byte) (s : State) (h : r.plainDst = true) :
    writeReg r v s = .next (s.setReg r v) := by
  revert h; cases r <;> first | (intro _; rfl) | (intro h; exact absurd h (by decide))

theorem writeReg_addr (b : Bank) (v : Byte) (s : State) :
    writeReg b.addrReg v s = .next ((s.setReg b.addrReg v).ivSelect b v) := by
  cases b <;> rfl

theorem writeReg_r10 (v : Byte) (s : State) : writeReg .r10 v s = .refused .reservedDestination := rfl

@[simp] theorem onNext_next (s : State) (f : State → State) : onNext (.next s) f = .next (f s) := rfl

@[simp] theorem onNext_refused (r : Refusal) (f : State → State) : onNext (.refused r) f = .refused r := rfl

/-! ### Program addresses -/

theorem State.nonzeroTo_zero (s : State) {v : Byte} (a : ProgAddr) (h : v = 0) : s.nonzeroTo v a = s.seqNext :=
  if_pos h

theorem State.nonzeroTo_nonzero (s : State) {v : Byte} (a : ProgAddr) (h : v ≠ 0) : s.nonzeroTo v a = s.branchTo a :=
  if_neg h

/-- An address of the 256-word page of PC, as a number. -/
theorem page8_toNat (pc : ProgAddr) (x : BitVec 8) : (page8 pc x).toNat = pc.toNat / 256 * 256 + x.toNat := by
  have := pc.isLt
  rw [page8, BitVec.toNat_append, BitVec.extractLsb'_toNat, ← Nat.shiftLeft_add_eq_or_of_lt x.isLt,
    Nat.shiftRight_eq_div_pow, Nat.shiftLeft_eq]
  omega

/-- An address of the 32-word page of PC, as a number. -/
theorem page5_toNat (pc : ProgAddr) (x : BitVec 5) : (page5 pc x).toNat = pc.toNat / 32 * 32 + x.toNat := by
  have := pc.isLt
  rw [page5, BitVec.toNat_append, BitVec.extractLsb'_toNat, ← Nat.shiftLeft_add_eq_or_of_lt x.isLt,
    Nat.shiftRight_eq_div_pow, Nat.shiftLeft_eq]
  omega

/-! ### The shared shapes -/

theorem finishReg_plain (op : AluOp) (a : Byte) {dst : Reg} (s : State) (h : dst.plainDst = true) :
    finishReg op a dst s =
      .next (((s.aluFlags op a).setReg dst (aluResult op a s.regs.r0))).seqNext := by
  rw [finishReg, writeReg_plain _ _ h, onNext_next]

theorem finishReg_addr (op : AluOp) (a : Byte) (b : Bank) (s : State) :
    finishReg op a b.addrReg s =
      .next ((((s.aluFlags op a).setReg b.addrReg (aluResult op a s.regs.r0))).ivSelect b
        (aluResult op a s.regs.r0)).seqNext := by
  rw [finishReg, writeReg_addr, onNext_next]

theorem finishReg_r10 (op : AluOp) (a : Byte) (s : State) :
    finishReg op a .r10 s = .refused .reservedDestination := rfl

/-! ### Every next state of an instruction -/

/-- What an instruction can make of the state `u` in which the input phase has left the machine: a register written, an
address register written and its bank's port selected, a byte written to a bank (each with some OVF, and the next
address in sequence), or new program addresses only. -/
inductive Effect (u : State) : State → Prop where
  | reg (o : Bool) (r : Reg) (v : Byte) (h : r.plainDst = true) :
      Effect u ((u.setOvf o).setReg r v).seqNext
  | addr (o : Bool) (b : Bank) (v : Byte) :
      Effect u (((u.setOvf o).setReg b.addrReg v).ivSelect b v).seqNext
  | port (o : Bool) (b : Bank) (v : Byte) :
      Effect u ((u.setOvf o).ivWrite b v).seqNext
  | goto (pc ar : ProgAddr) : Effect u (u.setAddrs pc ar)

theorem finishReg_effect {op : AluOp} {a : Byte} {dst : Reg} {s t : State} (h : finishReg op a dst s = .next t) :
    Effect s t := by
  rcases reg_dst_cases dst with hd | ⟨b, rfl⟩ | rfl
  · rw [finishReg_plain op a s hd] at h
    cases h
    exact Effect.reg _ _ _ hd
  · rw [finishReg_addr] at h
    cases h
    exact Effect.addr _ _ _
  · cases h

theorem finishIv_effect {op : AluOp} {a latch : Byte} {len : BitVec 3} {dst : IvField} {s t : State}
    (h : finishIv op a latch len dst s = .next t) : Effect s t := by
  cases h
  exact Effect.port _ _ _

/-- The state the input phase leaves: no bus read, or one. -/
def InputPhase (s u : State) : Prop := u = s.noRead ∨ ∃ b, u = s.ivRead b

theorem inputPhase_noRead (s : State) : InputPhase s s.noRead := Or.inl rfl

theorem inputPhase_ivRead (s : State) (b : Bank) : InputPhase s (s.ivRead b) := Or.inr ⟨b, rfl⟩

theorem nonzeroTo_effect (u : State) (v : Byte) (a : ProgAddr) : Effect u (u.nonzeroTo v a) := by
  unfold State.nonzeroTo
  split
  · exact Effect.goto (u.pc + 1) (u.pc + 1)
  · exact Effect.goto a a

theorem xmitReg_effect {dst : Reg} {lit : Byte} {s t : State}
    (h : onNext (writeReg dst lit s.noRead) State.seqNext = .next t) : Effect s.noRead t := by
  rcases reg_dst_cases dst with hd | ⟨b, rfl⟩ | rfl
  · rw [writeReg_plain _ _ hd] at h
    cases h
    exact Effect.reg s.ovf _ _ hd
  · rw [writeReg_addr] at h
    cases h
    exact Effect.addr s.ovf _ _
  · cases h

/-- Every next state of every instruction is one effect on the state after the input phase. -/
theorem exec_effect {i : Instr} {s t : State} (h : exec i s = .next t) : ∃ u, InputPhase s u ∧ Effect u t := by
  cases i
  case moveRegReg | addRegReg | andRegReg | xorRegReg | moveRegAddr | addRegAddr | andRegAddr | xorRegAddr =>
    exact ⟨_, inputPhase_noRead s, finishReg_effect h⟩
  case moveIvReg | addIvReg | andIvReg | xorIvReg | moveIvAddr | addIvAddr | andIvAddr | xorIvAddr =>
    exact ⟨_, inputPhase_ivRead s _, finishReg_effect h⟩
  case moveRegIv | addRegIv | andRegIv | xorRegIv | moveIvIv | addIvIv | andIvIv | xorIvIv =>
    exact ⟨_, inputPhase_ivRead s _, finishIv_effect h⟩
  case moveReserved | addReserved | andReserved | xorReserved | xmitReserved => cases h
  case xecReg src lit =>
    cases h
    exact ⟨_, inputPhase_noRead s, Effect.goto s.pc _⟩
  case xecIv src len lit =>
    cases h
    exact ⟨_, inputPhase_ivRead s _, Effect.goto s.pc _⟩
  case nztReg =>
    cases h
    exact ⟨_, inputPhase_noRead s, nonzeroTo_effect _ _ _⟩
  case nztIv =>
    cases h
    exact ⟨_, inputPhase_ivRead s _, nonzeroTo_effect _ _ _⟩
  case xmitReg | xmitAddr => exact ⟨_, inputPhase_noRead s, xmitReg_effect h⟩
  case xmitIv8 bank lit =>
    cases h
    exact ⟨_, inputPhase_noRead s, Effect.port s.ovf _ _⟩
  case xmitIv dst len lit =>
    cases h
    exact ⟨_, inputPhase_ivRead s _, Effect.port s.ovf _ _⟩
  case jmp a =>
    cases h
    exact ⟨_, inputPhase_noRead s, Effect.goto a a⟩

/-- The input phase gives the MCLK pulse of the cycle, and the one that was due before it. -/
theorem inputPhase_pulse {s u : State} (h : InputPhase s u) :
    u.bus.mclk = true ∧ u.bus.pulseBefore = s.pulseDue ∧ u.pulseDue = false := by
  rcases h with rfl | ⟨b, rfl⟩ <;> exact ⟨rfl, rfl, rfl⟩

/-- What follows the input phase changes nothing of the bus record but its output. -/
theorem effect_bus {u t : State} (h : Effect u t) :
    t.bus.input = u.bus.input ∧ t.bus.mclk = u.bus.mclk ∧ t.bus.pulseBefore = u.bus.pulseBefore ∧
    t.pulseDue = u.pulseDue := by
  cases h <;> simp

/-! ### Every next state of a step -/

/-- A step that answers a next state is a cycle with RESET low, a halted cycle, or an instruction. -/
theorem step_cases {s t : State} (h : step s = .next t) :
    (s.resetLow = true ∧ t = resetCycle s.takeInput) ∨
    (s.resetLow = false ∧ s.haltLow = true ∧ t = haltCycle s.takeInput) ∨
    (s.resetLow = false ∧ s.haltLow = false ∧ exec (decodeWord s.takeInput.fetchWord) s.takeInput = .next t) := by
  unfold step at h
  split_ifs at h with h1 h2
  · cases h; exact Or.inl ⟨h1, rfl⟩
  · cases h; exact Or.inr (Or.inl ⟨by simpa using h1, h2, rfl⟩)
  · exact Or.inr (Or.inr ⟨by simpa using h1, by simpa using h2, h⟩)

/-! ### The environment's inputs -/

theorem applyChanges_fields (s : State) (cs : List PortChange) :
    (s.applyChanges cs).regs = s.regs ∧ (s.applyChanges cs).ovf = s.ovf ∧ (s.applyChanges cs).pc = s.pc ∧
    (s.applyChanges cs).ar = s.ar ∧ (s.applyChanges cs).prog = s.prog ∧ (s.applyChanges cs).bus = s.bus ∧
    (s.applyChanges cs).pulseDue = s.pulseDue ∧ (s.applyChanges cs).inputs = s.inputs ∧
    (s.applyChanges cs).floats = s.floats := by
  induction cs generalizing s with
  | nil => simp [State.applyChanges]
  | cons c cs ih => simpa [State.applyChanges] using ih (s.setPort c.bank c.addr c.data)

theorem applyChanges_bank (s : State) (cs : List PortChange) (b : Bank) :
    ((s.applyChanges cs).bank b).sel = (s.bank b).sel ∧ ((s.applyChanges cs).bank b).kinds = (s.bank b).kinds := by
  induction cs generalizing s with
  | nil => simp [State.applyChanges]
  | cons c cs ih => simpa [State.applyChanges] using ih (s.setPort c.bank c.addr c.data)

@[simp] theorem State.takeInput_regs (s : State) : s.takeInput.regs = s.regs :=
  (applyChanges_fields s _).1

@[simp] theorem State.takeInput_ovf (s : State) : s.takeInput.ovf = s.ovf :=
  (applyChanges_fields s _).2.1

@[simp] theorem State.takeInput_pc (s : State) : s.takeInput.pc = s.pc :=
  (applyChanges_fields s _).2.2.1

@[simp] theorem State.takeInput_ar (s : State) : s.takeInput.ar = s.ar :=
  (applyChanges_fields s _).2.2.2.1

@[simp] theorem State.takeInput_prog (s : State) : s.takeInput.prog = s.prog :=
  (applyChanges_fields s _).2.2.2.2.1

@[simp] theorem State.takeInput_bus (s : State) : s.takeInput.bus = s.bus :=
  (applyChanges_fields s _).2.2.2.2.2.1

@[simp] theorem State.takeInput_pulseDue (s : State) : s.takeInput.pulseDue = s.pulseDue :=
  (applyChanges_fields s _).2.2.2.2.2.2.1

@[simp] theorem State.takeInput_floats (s : State) : s.takeInput.floats = s.floats :=
  (applyChanges_fields s _).2.2.2.2.2.2.2.2

@[simp] theorem State.takeInput_inputs (s : State) : s.takeInput.inputs = s.inputs.tail := rfl

theorem State.takeInput_bank (s : State) (b : Bank) :
    s.takeInput.bank b = (s.applyChanges s.cycleInput.ports).bank b := by
  cases b <;> rfl

@[simp] theorem State.takeInput_sel (s : State) (b : Bank) : (s.takeInput.bank b).sel = (s.bank b).sel := by
  rw [State.takeInput_bank]; exact (applyChanges_bank s _ b).1

@[simp] theorem State.takeInput_kinds (s : State) (b : Bank) : (s.takeInput.bank b).kinds = (s.bank b).kinds := by
  rw [State.takeInput_bank]; exact (applyChanges_bank s _ b).2

end Sys2Proof.Machine
end

