-- ==== Sys2Proof/Laws/PerInstr.lean ====
section
/-! SUPPORT. Laws/PerInstr.lean: laws of every instruction as syntax, one lemma a constructor. -/

namespace Sys2Proof.Laws

/-- The operation code of an instruction's class (spec/30_encoding.md R93). -/
def classCode : Instr → BitVec 3
  | .moveRegReg _ _ _ => 0#3
  | .moveRegAddr _ _ _ => 0#3
  | .moveRegIv _ _ _ => 0#3
  | .moveIvReg _ _ _ => 0#3
  | .moveIvIv _ _ _ => 0#3
  | .moveIvAddr _ _ _ => 0#3
  | .moveReserved _ _ => 0#3
  | .addRegReg _ _ _ => 1#3
  | .addRegAddr _ _ _ => 1#3
  | .addRegIv _ _ _ => 1#3
  | .addIvReg _ _ _ => 1#3
  | .addIvIv _ _ _ => 1#3
  | .addIvAddr _ _ _ => 1#3
  | .addReserved _ _ => 1#3
  | .andRegReg _ _ _ => 2#3
  | .andRegAddr _ _ _ => 2#3
  | .andRegIv _ _ _ => 2#3
  | .andIvReg _ _ _ => 2#3
  | .andIvIv _ _ _ => 2#3
  | .andIvAddr _ _ _ => 2#3
  | .andReserved _ _ => 2#3
  | .xorRegReg _ _ _ => 3#3
  | .xorRegAddr _ _ _ => 3#3
  | .xorRegIv _ _ _ => 3#3
  | .xorIvReg _ _ _ => 3#3
  | .xorIvIv _ _ _ => 3#3
  | .xorIvAddr _ _ _ => 3#3
  | .xorReserved _ _ => 3#3
  | .xecReg _ _ => 4#3
  | .xecIv _ _ _ => 4#3
  | .nztReg _ _ => 5#3
  | .nztIv _ _ _ => 5#3
  | .xmitReg _ _ => 6#3
  | .xmitAddr _ _ => 6#3
  | .xmitIv8 _ _ => 6#3
  | .xmitIv _ _ _ => 6#3
  | .xmitReserved _ => 6#3
  | .jmp _ => 7#3

/-- The top three bits of an instruction's word are its class's operation code (spec/30_encoding.md R80, R93). -/
def OpCode.Statement (i : Instr) : Prop := (encodeWord i).extractLsb' 13 3 = classCode i

theorem OpCode.moveRegReg (src : Reg) (rot : BitVec 3) (dst : Reg) : OpCode.Statement (.moveRegReg src rot dst) :=
  extract_append_hi (m := 3) (n := 13) _ _

theorem OpCode.moveRegAddr (src : Reg) (rot : BitVec 3) (bank : Bank) : OpCode.Statement (.moveRegAddr src rot bank) :=
  extract_append_hi (m := 3) (n := 13) _ _

theorem OpCode.moveRegIv (src : Reg) (len : BitVec 3) (dst : IvField) : OpCode.Statement (.moveRegIv src len dst) :=
  extract_append_hi (m := 3) (n := 13) _ _

theorem OpCode.moveIvReg (src : IvField) (len : BitVec 3) (dst : Reg) : OpCode.Statement (.moveIvReg src len dst) :=
  extract_append_hi (m := 3) (n := 13) _ _

theorem OpCode.moveIvIv (src : IvField) (len : BitVec 3) (dst : IvField) : OpCode.Statement (.moveIvIv src len dst) :=
  extract_append_hi (m := 3) (n := 13) _ _

theorem OpCode.moveIvAddr (src : IvField) (len : BitVec 3) (bank : Bank) : OpCode.Statement (.moveIvAddr src len bank) :=
  extract_append_hi (m := 3) (n := 13) _ _

theorem OpCode.moveReserved (src : BitVec 5) (rl : BitVec 3) : OpCode.Statement (.moveReserved src rl) :=
  extract_append_hi (m := 3) (n := 13) _ _

theorem OpCode.addRegReg (src : Reg) (rot : BitVec 3) (dst : Reg) : OpCode.Statement (.addRegReg src rot dst) :=
  extract_append_hi (m := 3) (n := 13) _ _

theorem OpCode.addRegAddr (src : Reg) (rot : BitVec 3) (bank : Bank) : OpCode.Statement (.addRegAddr src rot bank) :=
  extract_append_hi (m := 3) (n := 13) _ _

theorem OpCode.addRegIv (src : Reg) (len : BitVec 3) (dst : IvField) : OpCode.Statement (.addRegIv src len dst) :=
  extract_append_hi (m := 3) (n := 13) _ _

theorem OpCode.addIvReg (src : IvField) (len : BitVec 3) (dst : Reg) : OpCode.Statement (.addIvReg src len dst) :=
  extract_append_hi (m := 3) (n := 13) _ _

theorem OpCode.addIvIv (src : IvField) (len : BitVec 3) (dst : IvField) : OpCode.Statement (.addIvIv src len dst) :=
  extract_append_hi (m := 3) (n := 13) _ _

theorem OpCode.addIvAddr (src : IvField) (len : BitVec 3) (bank : Bank) : OpCode.Statement (.addIvAddr src len bank) :=
  extract_append_hi (m := 3) (n := 13) _ _

theorem OpCode.addReserved (src : BitVec 5) (rl : BitVec 3) : OpCode.Statement (.addReserved src rl) :=
  extract_append_hi (m := 3) (n := 13) _ _

theorem OpCode.andRegReg (src : Reg) (rot : BitVec 3) (dst : Reg) : OpCode.Statement (.andRegReg src rot dst) :=
  extract_append_hi (m := 3) (n := 13) _ _

theorem OpCode.andRegAddr (src : Reg) (rot : BitVec 3) (bank : Bank) : OpCode.Statement (.andRegAddr src rot bank) :=
  extract_append_hi (m := 3) (n := 13) _ _

theorem OpCode.andRegIv (src : Reg) (len : BitVec 3) (dst : IvField) : OpCode.Statement (.andRegIv src len dst) :=
  extract_append_hi (m := 3) (n := 13) _ _

theorem OpCode.andIvReg (src : IvField) (len : BitVec 3) (dst : Reg) : OpCode.Statement (.andIvReg src len dst) :=
  extract_append_hi (m := 3) (n := 13) _ _

theorem OpCode.andIvIv (src : IvField) (len : BitVec 3) (dst : IvField) : OpCode.Statement (.andIvIv src len dst) :=
  extract_append_hi (m := 3) (n := 13) _ _

theorem OpCode.andIvAddr (src : IvField) (len : BitVec 3) (bank : Bank) : OpCode.Statement (.andIvAddr src len bank) :=
  extract_append_hi (m := 3) (n := 13) _ _

theorem OpCode.andReserved (src : BitVec 5) (rl : BitVec 3) : OpCode.Statement (.andReserved src rl) :=
  extract_append_hi (m := 3) (n := 13) _ _

theorem OpCode.xorRegReg (src : Reg) (rot : BitVec 3) (dst : Reg) : OpCode.Statement (.xorRegReg src rot dst) :=
  extract_append_hi (m := 3) (n := 13) _ _

theorem OpCode.xorRegAddr (src : Reg) (rot : BitVec 3) (bank : Bank) : OpCode.Statement (.xorRegAddr src rot bank) :=
  extract_append_hi (m := 3) (n := 13) _ _

theorem OpCode.xorRegIv (src : Reg) (len : BitVec 3) (dst : IvField) : OpCode.Statement (.xorRegIv src len dst) :=
  extract_append_hi (m := 3) (n := 13) _ _

theorem OpCode.xorIvReg (src : IvField) (len : BitVec 3) (dst : Reg) : OpCode.Statement (.xorIvReg src len dst) :=
  extract_append_hi (m := 3) (n := 13) _ _

theorem OpCode.xorIvIv (src : IvField) (len : BitVec 3) (dst : IvField) : OpCode.Statement (.xorIvIv src len dst) :=
  extract_append_hi (m := 3) (n := 13) _ _

theorem OpCode.xorIvAddr (src : IvField) (len : BitVec 3) (bank : Bank) : OpCode.Statement (.xorIvAddr src len bank) :=
  extract_append_hi (m := 3) (n := 13) _ _

theorem OpCode.xorReserved (src : BitVec 5) (rl : BitVec 3) : OpCode.Statement (.xorReserved src rl) :=
  extract_append_hi (m := 3) (n := 13) _ _

theorem OpCode.xecReg (src : Reg) (lit : BitVec 8) : OpCode.Statement (.xecReg src lit) :=
  extract_append_hi (m := 3) (n := 13) _ _

theorem OpCode.xecIv (src : IvField) (len : BitVec 3) (lit : BitVec 5) : OpCode.Statement (.xecIv src len lit) :=
  extract_append_hi (m := 3) (n := 13) _ _

theorem OpCode.nztReg (src : Reg) (lit : BitVec 8) : OpCode.Statement (.nztReg src lit) :=
  extract_append_hi (m := 3) (n := 13) _ _

theorem OpCode.nztIv (src : IvField) (len : BitVec 3) (lit : BitVec 5) : OpCode.Statement (.nztIv src len lit) :=
  extract_append_hi (m := 3) (n := 13) _ _

theorem OpCode.xmitReg (dst : Reg) (lit : BitVec 8) : OpCode.Statement (.xmitReg dst lit) :=
  extract_append_hi (m := 3) (n := 13) _ _

theorem OpCode.xmitAddr (bank : Bank) (lit : BitVec 8) : OpCode.Statement (.xmitAddr bank lit) :=
  extract_append_hi (m := 3) (n := 13) _ _

theorem OpCode.xmitIv8 (bank : Bank) (lit : BitVec 8) : OpCode.Statement (.xmitIv8 bank lit) :=
  extract_append_hi (m := 3) (n := 13) _ _

theorem OpCode.xmitIv (dst : IvField) (len : BitVec 3) (lit : BitVec 5) : OpCode.Statement (.xmitIv dst len lit) :=
  extract_append_hi (m := 3) (n := 13) _ _

theorem OpCode.xmitReserved (lit : BitVec 8) : OpCode.Statement (.xmitReserved lit) :=
  extract_append_hi (m := 3) (n := 13) _ _

theorem OpCode.jmp (addr : ProgAddr) : OpCode.Statement (.jmp addr) :=
  extract_append_hi (m := 3) (n := 13) _ _

end Sys2Proof.Laws
end

