-- ==== Sys2Proof/Tests/Slice0.lean ====
section
/-! SUPPORT. Tests/Slice0.lean: the smoke test of WellFormed, a word written out from the spec's formats for every
constructor, one-step tests on the values of spec/95_test_vectors.md, and for each statement with hypotheses a state and
operands that meet them (`witness_…`). -/

open Sys2Proof Sys2Proof.Machine

namespace Sys2Proof.Tests

/-! ## Helpers -/

/-- A machine whose Left Bank has port 0x10 selected, holding `l`, and whose Right Bank has port 0x02, holding `r`. -/
def bench (g : Regs) (l r : Byte) : State :=
  { State.reset with
    regs := g, left := { sel := some 0x10, ports := [(0x10, l)], kinds := [] }
    right := { sel := some 0x02, ports := [(0x02, r)], kinds := [] } }

/-- The next state, if there is one. -/
def nextState : Host.Outcome State Fault Refusal → Option State
  | .next t => some t
  | .fault _ | .refused _ => none

/-- The state after the step that runs the word. -/
def after (w : Nat) (s : State) : Option State := nextState (step (s.withFetchWord 16 w))

/-- The machine at a program address. -/
def atAddr (pc ar : ProgAddr) (s : State) : State := s.setAddrs pc ar

/-- The byte a port of a bank lists. -/
def portOf (t : State) (b : Bank) (a : Nat) : Option Byte := (t.bank b).ports.read a

/-! ## WellFormed: the destinations no word of the form has -/

theorem test_wellFormed_move :
    (∀ d ∈ [Reg.r7, .r10, .r17], (Instr.moveRegReg .r1 0 d).wellFormed = false ∧
      (Instr.moveIvReg ⟨.left, 7⟩ 0 d).wellFormed = false) ∧
    (∀ d ∈ [Reg.r0, .r6, .r11, .r12, .r13, .r16], (Instr.moveRegReg .r10 7 d).wellFormed = true ∧
      (Instr.moveIvReg ⟨.right, 0⟩ 7 d).wellFormed = true) := by decide

theorem test_wellFormed_add :
    (∀ d ∈ [Reg.r7, .r10, .r17], (Instr.addRegReg .r1 0 d).wellFormed = false ∧
      (Instr.addIvReg ⟨.left, 7⟩ 0 d).wellFormed = false) ∧
    (∀ d ∈ [Reg.r0, .r6, .r11, .r12, .r13, .r16], (Instr.addRegReg .r10 7 d).wellFormed = true ∧
      (Instr.addIvReg ⟨.right, 0⟩ 7 d).wellFormed = true) := by decide

theorem test_wellFormed_and :
    (∀ d ∈ [Reg.r7, .r10, .r17], (Instr.andRegReg .r1 0 d).wellFormed = false ∧
      (Instr.andIvReg ⟨.left, 7⟩ 0 d).wellFormed = false) ∧
    (∀ d ∈ [Reg.r0, .r6, .r11, .r12, .r13, .r16], (Instr.andRegReg .r10 7 d).wellFormed = true ∧
      (Instr.andIvReg ⟨.right, 0⟩ 7 d).wellFormed = true) := by decide

theorem test_wellFormed_xor :
    (∀ d ∈ [Reg.r7, .r10, .r17], (Instr.xorRegReg .r1 0 d).wellFormed = false ∧
      (Instr.xorIvReg ⟨.left, 7⟩ 0 d).wellFormed = false) ∧
    (∀ d ∈ [Reg.r0, .r6, .r11, .r12, .r13, .r16], (Instr.xorRegReg .r10 7 d).wellFormed = true ∧
      (Instr.xorIvReg ⟨.right, 0⟩ 7 d).wellFormed = true) := by decide

theorem test_wellFormed_xmit :
    (∀ d ∈ [Reg.r7, .r10, .r12, .r13, .r17], (Instr.xmitReg d 0xFF).wellFormed = false) ∧
    (∀ d ∈ [Reg.r0, .r6, .r11, .r14, .r16], (Instr.xmitReg d 0xFF).wellFormed = true) := by decide

theorem test_wellFormed_form :
    (∀ d ∈ [Reg.r7, .r10, .r17], (AluForm.regReg .r0 0 d).wellFormed = false ∧
      (AluForm.ivReg ⟨.left, 0⟩ 0 d).wellFormed = false) ∧ (AluForm.reserved 0x1F 7).wellFormed = true := by decide

/-! ## Words written out field by field: operation code, S, R or L, D; or operation code, S or D, J (R81 to R87) -/

theorem test_decode_move :
    decodeWord 0b0000010010100100 = .moveRegReg .r4 5 .r4 ∧
    decodeWord 0b0000001110001111 = .moveRegAddr .r3 4 .right ∧
    decodeWord 0b0000010101110110 = .moveRegIv .r5 3 ⟨.left, 6⟩ ∧
    decodeWord 0b0001110110000100 = .moveIvReg ⟨.right, 5⟩ 4 .r4 ∧
    decodeWord 0b0001001101011111 = .moveIvIv ⟨.left, 3⟩ 2 ⟨.right, 7⟩ ∧
    decodeWord 0b0001011101100111 = .moveIvAddr ⟨.left, 7⟩ 3 .left ∧
    decodeWord 0b0000000100001000 = .moveReserved 0b00001 0 := by decide

theorem test_decode_add :
    decodeWord 0b0010010010100100 = .addRegReg .r4 5 .r4 ∧
    decodeWord 0b0010001110001111 = .addRegAddr .r3 4 .right ∧
    decodeWord 0b0010010101110110 = .addRegIv .r5 3 ⟨.left, 6⟩ ∧
    decodeWord 0b0011110110000100 = .addIvReg ⟨.right, 5⟩ 4 .r4 ∧
    decodeWord 0b0011001101011111 = .addIvIv ⟨.left, 3⟩ 2 ⟨.right, 7⟩ ∧
    decodeWord 0b0011011101100111 = .addIvAddr ⟨.left, 7⟩ 3 .left ∧
    decodeWord 0b0010000100001000 = .addReserved 0b00001 0 := by decide

theorem test_decode_and :
    decodeWord 0b0100010010100100 = .andRegReg .r4 5 .r4 ∧
    decodeWord 0b0100001110001111 = .andRegAddr .r3 4 .right ∧
    decodeWord 0b0100010101110110 = .andRegIv .r5 3 ⟨.left, 6⟩ ∧
    decodeWord 0b0101110110000100 = .andIvReg ⟨.right, 5⟩ 4 .r4 ∧
    decodeWord 0b0101001101011111 = .andIvIv ⟨.left, 3⟩ 2 ⟨.right, 7⟩ ∧
    decodeWord 0b0101011101100111 = .andIvAddr ⟨.left, 7⟩ 3 .left ∧
    decodeWord 0b0100000100001000 = .andReserved 0b00001 0 := by decide

theorem test_decode_xor :
    decodeWord 0b0110010010100100 = .xorRegReg .r4 5 .r4 ∧
    decodeWord 0b0110001110001111 = .xorRegAddr .r3 4 .right ∧
    decodeWord 0b0110010101110110 = .xorRegIv .r5 3 ⟨.left, 6⟩ ∧
    decodeWord 0b0111110110000100 = .xorIvReg ⟨.right, 5⟩ 4 .r4 ∧
    decodeWord 0b0111001101011111 = .xorIvIv ⟨.left, 3⟩ 2 ⟨.right, 7⟩ ∧
    decodeWord 0b0111011101100111 = .xorIvAddr ⟨.left, 7⟩ 3 .left ∧
    decodeWord 0b0110000100001000 = .xorReserved 0b00001 0 := by decide

theorem test_decode_xec :
    decodeWord 0b1000001000100000 = .xecReg .r2 0x20 ∧
    decodeWord 0b1001011001100110 = .xecIv ⟨.left, 6⟩ 3 6 := by decide

theorem test_decode_nzt :
    decodeWord 0b1010100000001000 = .nztReg .r10 0x08 ∧
    decodeWord 0b1011001100110001 = .nztIv ⟨.left, 3⟩ 1 0x11 := by decide

theorem test_decode_xmit :
    decodeWord 0b1100100100101010 = .xmitReg .r11 0x2A ∧
    decodeWord 0b1100111110000000 = .xmitAddr .right 0x80 ∧
    decodeWord 0b1100101001011010 = .xmitIv8 .left 0x5A ∧
    decodeWord 0b1100101110100101 = .xmitIv8 .right 0xA5 ∧
    decodeWord 0b1101110101100110 = .xmitIv ⟨.right, 5⟩ 3 6 ∧
    decodeWord 0b1100100011111111 = .xmitReserved 0xFF := by decide

theorem test_decode_jmp :
    decodeWord 0b1110000101110001 = .jmp 369 ∧ decodeWord 0xFFFF = .jmp 8191 := by decide

/-- Every register and both banks in the S field, R20 and R88. -/
theorem test_decode_source :
    (List.range 16).map (fun k => decodeWord (BitVec.ofNat 16 (256 * k))) =
      [Reg.r0, .r1, .r2, .r3, .r4, .r5, .r6, .r7, .r10, .r11, .r12, .r13, .r14, .r15, .r16, .r17].map
        (fun r => Instr.moveRegReg r 0 .r0) ∧
    decodeWord 0x1000 = .moveIvReg ⟨.left, 0⟩ 0 .r0 ∧ decodeWord 0x1F00 = .moveIvReg ⟨.right, 7⟩ 0 .r0 := by decide

/-- The more significant byte comes first; less than a word is refused by name. -/
theorem test_decode_bytes :
    decode [0xC9, 0x2A, 0x55] = .ok (.xmitReg .r11 0x2A, [0x55]) ∧ decode [0xC9] = .error .truncated ∧
    decode [] = .error .truncated ∧ decodeTableWord 16 0xC92A = some (.xmitReg .r11 0x2A) ∧
    encode (.xmitReg .r11 0x2A) = [0xC9, 0x2A] := by decide

/-! ## The data path (spec/95_test_vectors.md section 2.1) -/

theorem test_rotate : rotr8 0x81 1 = 0xC0 ∧ rotr8 0x81 0 = 0x81 ∧ rotr8 0xB4 5 = 0xA5 ∧ rotr8 0x01 7 = 0x02 := by decide

theorem test_mask : maskField 0xFF 3 = 0x07 ∧ maskField 0xA5 0 = 0xA5 ∧ lowmask 1 = 0x01 ∧ lowmask 7 = 0x7F := by decide

theorem test_merge :
    merge 0xFF 0x00 3 6 = 0xF1 ∧ merge 0x81 0x06 3 5 = 0x99 ∧ merge 0x00 0xFF 1 0 = 0x80 ∧ merge 0x00 0xFF 4 1 = 0xC0 ∧
    merge 0x3C 0xA5 0 7 = 0xA5 ∧ merge 0xFF 0x00 0 3 = 0x0F := by decide

theorem test_add : add8 0xF0 0x10 = (0x00, true) ∧ add8 0x7F 0x01 = (0x80, false) ∧ add8 0xFF 0xFF = (0xFE, true) := by
  decide

/-! ## One step (spec/95_test_vectors.md section 2) -/

theorem test_move_reg_reg :
    (after 0x04A4 (bench { Regs.reset with r4 := 0xB4 } 0 0)).map (fun t => (t.regs.r4, t.pc, t.ar)) =
      some (0xA5, 1, 1) := by decide

theorem test_move_reg_reg_ovf :
    (after 0x0801 (State.setOvf (bench { Regs.reset with r1 := 0xEE } 0 0) true)).map (fun t => (t.regs.r1, t.ovf)) =
      some (0x01, true) := by decide

theorem test_move_reg_addr :
    (after 0x038F (bench { Regs.reset with r3 := 0x21 } 0 0)).map (fun t => (t.regs.r17, t.right.sel, t.left.sel, t.bus.output)) =
      some (0x12, some 0x12, some 0x10, some (.select .right 0x12)) := by decide

theorem test_move_reg_iv :
    (after 0x0576 (bench { Regs.reset with r5 := 0xFD } 0x81 0)).map (fun t => (portOf t .left 0x10, t.bus)) =
      some (some 0x8B, ⟨some (.left, 0x81), some (.write .left 0x8B), true, true⟩) := by decide

theorem test_move_reg_iv_cut :
    (after 0x0591 (bench { Regs.reset with r5 := 0x0F } 0 0)).map (fun t => (portOf t .left 0x10)) =
      some (some 0xC0) := by decide

theorem test_move_iv_reg :
    (after 0x1D84 (bench { Regs.reset with r4 := 0xFF } 0 0xB6)).map (fun t => (t.regs.r4, portOf t .right 2)) =
      some (0x0D, some 0xB6) := by decide

theorem test_move_iv_reg_wrap :
    (after 0x12A1 (bench { Regs.reset with r1 := 0xFF } 0xE5 0)).map (fun t => (t.regs.r1)) =
      some (0x0F) := by decide

theorem test_move_iv_iv :
    (after 0x1357 (bench Regs.reset 0x30 0)).map (fun t => (portOf t .left 0x10)) =
      some (some 0x33) := by decide

theorem test_move_iv_iv_banks :
    (after 0x135F (bench Regs.reset 0x35 0xC0)).map (fun t => (portOf t .right 2, portOf t .left 0x10)) =
      some (some 0x37, some 0x35) := by decide

theorem test_move_iv_addr :
    (after 0x134F (bench Regs.reset 0x30 0)).map (fun t => (t.regs.r17, t.right.sel)) =
      some (0x03, some 0x03) := by decide

theorem test_add_reg_reg :
    (after 0x2183 (State.setOvf (bench { Regs.reset with r0 := 0x05, r1 := 0x12 } 0 0) true)).map (fun t => (t.regs.r3, t.ovf)) =
      some (0x26, false) := by decide

theorem test_add_reg_reg_aux :
    (after 0x2000 (bench { Regs.reset with r0 := 0x90 } 0 0)).map (fun t => (t.regs.r0, t.ovf)) =
      some (0x20, true) := by decide

theorem test_add_reg_addr :
    (after 0x2227 (bench { Regs.reset with r0 := 0x10, r2 := 0x05 } 0 0)).map (fun t => (t.regs.r7, t.left.sel, t.ovf)) =
      some (0x92, some 0x92, false) := by decide

theorem test_add_reg_iv :
    (after 0x2197 (bench { Regs.reset with r0 := 0x0F, r1 := 0xF3 } 0xA0 0)).map (fun t => (portOf t .left 0x10, t.ovf)) =
      some (some 0xA2, true) := by decide

theorem test_add_reg_iv_field :
    (after 0x2193 (bench { Regs.reset with r0 := 0x0F, r1 := 0x03 } 0x0A 0)).map (fun t => (portOf t .left 0x10, t.ovf)) =
      some (some 0x2A, false) := by decide

theorem test_add_iv_reg :
    (after 0x3D84 (bench { Regs.reset with r0 := 0x0F } 0 0x3C)).map (fun t => (t.regs.r4, t.ovf)) =
      some (0x1E, false) := by decide

theorem test_add_iv_reg_carry :
    (after 0x3F04 (bench { Regs.reset with r0 := 0x01, r4 := 0x55 } 0 0xFF)).map (fun t => (t.regs.r4, t.ovf)) =
      some (0x00, true) := by decide

theorem test_add_iv_iv :
    (after 0x379B (bench { Regs.reset with r0 := 0x03 } 0x25 0xFF)).map (fun t => (portOf t .right 2, t.ovf)) =
      some (some 0x85, false) := by decide

theorem test_add_iv_iv_carry :
    (after 0x3717 (bench { Regs.reset with r0 := 0x01 } 0xFF 0)).map (fun t => (portOf t .left 0x10, t.ovf)) =
      some (some 0x00, true) := by decide

theorem test_add_iv_addr :
    (after 0x370F (bench { Regs.reset with r0 := 0x80 } 0x90 0)).map (fun t => (t.regs.r17, t.right.sel, t.ovf)) =
      some (0x10, some 0x10, true) := by decide

theorem test_and_reg_reg :
    (after 0x4182 (bench { Regs.reset with r0 := 0x0F, r1 := 0xA5 } 0 0)).map (fun t => (t.regs.r2)) =
      some (0x0A) := by decide

theorem test_and_reg_reg_aux :
    (after 0x4100 (State.setOvf (bench { Regs.reset with r0 := 0xF0, r1 := 0x3C } 0 0) true)).map (fun t => (t.regs.r0, t.ovf)) =
      some (0x30, true) := by decide

theorem test_and_reg_addr :
    (after 0x424F (bench { Regs.reset with r0 := 0x3F, r2 := 0xFF } 0 0)).map (fun t => (t.regs.r17, t.right.sel)) =
      some (0x3F, some 0x3F) := by decide

theorem test_and_reg_iv :
    (after 0x4197 (bench { Regs.reset with r0 := 0x0C, r1 := 0xFA } 0x5F 0)).map (fun t => (portOf t .left 0x10)) =
      some (some 0x58) := by decide

theorem test_and_iv_reg :
    (after 0x5D84 (bench { Regs.reset with r0 := 0x0A } 0 0x3C)).map (fun t => (t.regs.r4)) =
      some (0x0A) := by decide

theorem test_and_iv_iv :
    (after 0x579B (bench { Regs.reset with r0 := 0x06 } 0xAF 0)).map (fun t => (portOf t .right 2)) =
      some (some 0x6F) := by decide

theorem test_and_iv_addr :
    (after 0x5707 (bench { Regs.reset with r0 := 0x0F } 0x3C 0)).map (fun t => (t.regs.r7, t.left.sel)) =
      some (0x0C, some 0x0C) := by decide

theorem test_xor_reg_reg :
    (after 0x6203 (State.setOvf (bench { Regs.reset with r0 := 0xFF, r2 := 0x1E } 0 0) true)).map (fun t => (t.regs.r3, t.ovf)) =
      some (0xE1, true) := by decide

theorem test_xor_reg_addr :
    (after 0x6307 (bench { Regs.reset with r0 := 0x01, r3 := 0x10 } 0 0)).map (fun t => (t.regs.r7, t.left.sel)) =
      some (0x11, some 0x11) := by decide

theorem test_xor_reg_iv :
    (after 0x61B7 (bench { Regs.reset with r0 := 0x1F, r1 := 0x0A } 0xE0 0)).map (fun t => (portOf t .left 0x10)) =
      some (some 0xF5) := by decide

theorem test_xor_iv_reg :
    (after 0x7F02 (bench { Regs.reset with r0 := 0xFF } 0 0x0F)).map (fun t => (t.regs.r2)) =
      some (0xF0) := by decide

theorem test_xor_iv_iv :
    (after 0x77BF (bench { Regs.reset with r0 := 0x1F } 0xAA 0)).map (fun t => (portOf t .right 2, portOf t .left 0x10)) =
      some (some 0xB5, some 0xAA) := by decide

theorem test_xor_iv_addr :
    (after 0x732F (bench { Regs.reset with r0 := 0x80 } 0x10 0)).map (fun t => (t.regs.r17, t.right.sel)) =
      some (0x81, some 0x81) := by decide

theorem test_xec_reg_wrap :
    (after 0x82FF (atAddr 511 511 (bench { Regs.reset with r2 := 0x03 } 0 0))).map (fun t => (t.pc, t.ar)) =
      some (511, 258) := by decide

theorem test_xec_reg_chain :
    (after 0x8105 (atAddr 320 336 (bench { Regs.reset with r1 := 0x01 } 0 0))).map (fun t => (t.pc, t.ar)) =
      some (320, 262) := by decide

theorem test_xec_iv :
    (after 0x9666 (atAddr 69 69 (bench Regs.reset 0x0A 0))).map (fun t => (t.pc, t.ar)) =
      some (69, 75) := by decide

theorem test_xec_iv_page :
    (after 0x97B0 (atAddr 8160 8160 (bench Regs.reset 0xFF 0))).map (fun t => (t.pc, t.ar)) =
      some (8160, 8175) := by decide

theorem test_nzt_reg_taken :
    (after 0xA107 (atAddr 320 336 (bench { Regs.reset with r1 := 0x01 } 0 0))).map (fun t => (t.pc, t.ar)) =
      some (263, 263) := by decide

theorem test_nzt_reg_wrap :
    (after 0xA142 (atAddr 8191 8191 (bench Regs.reset 0 0))).map (fun t => (t.pc, t.ar)) =
      some (0, 0) := by decide

theorem test_nzt_iv_taken :
    (after 0xB331 (atAddr 293 293 (bench Regs.reset 0x10 0))).map (fun t => (t.pc, t.ar)) =
      some (305, 305) := by decide

theorem test_nzt_iv_zero :
    (after 0xB331 (atAddr 293 293 (bench Regs.reset 0xEF 0))).map (fun t => (t.pc, t.ar)) =
      some (294, 294) := by decide

theorem test_xmit_reg :
    (after 0xC92A (bench Regs.reset 0 0)).map (fun t => (t.regs.r11, t.pc)) =
      some (0x2A, 1) := by decide

theorem test_xmit_addr :
    (after 0xCF80 (bench Regs.reset 0 0)).map (fun t => (t.regs.r17, t.right.sel, t.left.sel)) =
      some (0x80, some 0x80, some 0x10) := by decide

theorem test_xmit_iv8 :
    (after 0xCA5A (bench { Regs.reset with r12 := 0x77 } 0 0)).map (fun t => (portOf t .left 0x10, t.regs.r12, t.bus.input)) =
      some (some 0x5A, 0x77, none) := by decide

theorem test_xmit_iv :
    (after 0xDD66 (bench Regs.reset 0 0x81)).map (fun t => (portOf t .right 2)) =
      some (some 0x99) := by decide

theorem test_xmit_iv_long :
    (after 0xD5F5 (bench Regs.reset 0xFF 0)).map (fun t => (portOf t .left 0x10)) =
      some (some 0x57) := by decide

theorem test_jmp :
    (after 0xE171 (atAddr 16 16 (bench Regs.reset 0 0))).map (fun t => (t.pc, t.ar)) =
      some (369, 369) := by decide

/-- The reserved words stop by name. -/
theorem test_reserved :
    step (State.reset.withFetchWord 16 0x0008) = .refused .reservedDestination ∧
    step (State.reset.withFetchWord 16 0x3FE8) = .refused .reservedDestination ∧
    step (State.reset.withFetchWord 16 0x4108) = .refused .reservedDestination ∧
    step (State.reset.withFetchWord 16 0x6F08) = .refused .reservedDestination ∧
    step (State.reset.withFetchWord 16 0xC8FF) = .refused .reservedDestination := ⟨rfl, rfl, rfl, rfl, rfl⟩

/-! ## Reset, halt, the environment -/

/-- A cycle with RESET low, whatever HALT is: PC and AR zero, R1 and OVF kept, MCLK inhibited. -/
theorem test_reset_cycle :
    (nextState (step { State.setOvf (atAddr 5 9 (bench { Regs.reset with r1 := 0x33 } 0 0)) true with
      inputs := [⟨true, true, []⟩] })).map (fun t => (t.pc, t.ar, t.regs.r1, t.ovf, t.bus.mclk)) = some (0, 0, 0x33, true, false) := by decide

/-- A halted cycle between an XEC and its target: PC and AR stay apart. -/
theorem test_halt_cycle :
    (nextState (step { atAddr 5 9 (bench Regs.reset 0 0) with inputs := [⟨false, true, []⟩] })).map
      (fun t => (t.pc, t.ar, t.bus)) = some (5, 9, ⟨none, none, true, true⟩) := by decide

/-- The first cycle after RESET has the MCLK pulse before it (R221); a cycle with no RESET before it has none. -/
theorem test_resumption_pulse :
    (after 0xE000 State.reset).map (fun t => (t.bus.pulseBefore, t.pulseDue)) = some (true, false) ∧
    (after 0xE000 { State.reset with pulseDue := false }).map (fun t => t.bus.pulseBefore) = some false := by decide

/-- The environment changes a port before the cycle reads it (R67). -/
theorem test_port_change :
    (after 0x1701 { bench Regs.reset 0 0 with inputs := [⟨false, false, [⟨.left, 0x10, 0x77⟩]⟩] }).map
      (fun t => t.regs.r1) = some 0x77 := by decide

/-- A write to a port that is only read changes nothing (R191); an address no port has deselects the bank (R58). -/
theorem test_port_kinds :
    (after 0xCA5A { bench Regs.reset 0x11 0 with left := ⟨some 0x10, [(0x10, 0x11)], [(0x10, .readOnly)]⟩ }).map
      (fun t => portOf t .left 0x10) = some (some 0x11) ∧
    (after 0xC755 { bench Regs.reset 0x11 0 with left := ⟨some 0x10, [(0x10, 0x11)], [(0x55, .absent)]⟩ }).map
      (fun t => (t.left.sel, t.regs.r7)) = some (none, 0x55) := by decide

theorem test_memory :
    Memory.write (Memory.write (Memory.write [] 9 1) 4 2) 9 3 = [(4, 2), (9, 3)] ∧
    Memory.wf 10 [(4, 2), (9, 3)] = true ∧ Memory.wf 9 [(4, 2), (9, 3)] = false ∧
    Memory.wf 10 [(9, 3), (4, 2)] = false ∧ Memory.wf 10 [(4, 2), (4, 3)] = false ∧ State.reset.memWf = true := by
  decide

/-! ## Witnesses: a state and operands that meet a statement's hypotheses -/

/-- An instruction with a next state. -/
def completes (i : Instr) (s : State) : Bool := (nextState (exec i s)).isSome

/-- Two instructions, one after the other, with a next state each. -/
def complete2 (i j : Instr) (s : State) : Bool := ((nextState (exec i s)).bind fun t => nextState (exec j t)).isSome

theorem of_completes {i : Instr} {s : State} (h : completes i s = true) : ∃ t, exec i s = .next t := by
  revert h
  unfold completes
  cases exec i s <;> simp [nextState]

theorem of_complete2 {i j : Instr} {s : State} (h : complete2 i j s = true) :
    ∃ t u, exec i s = .next t ∧ exec j t = .next u := by
  revert h
  unfold complete2
  cases hi : exec i s with
  | next t => exact fun h => ⟨t, (of_completes (i := j) (s := t) h).choose, rfl, (of_completes h).choose_spec⟩
  | fault f => cases f
  | refused r => simp [nextState]

/-- A concrete machine: R1 holds 0x80, R2 1 and AUX 0x7F, the selected ports 0x80 and 0x81, at address 0x145. -/
def demo : State := atAddr 0x145 0x145 (bench { Regs.reset with r0 := 0x7F, r1 := 0x80, r2 := 0x01 } 0x80 0x81)

theorem witness_DecodeEncode :
    (Instr.moveRegReg .r17 7 .r16).wellFormed = true ∧ (Instr.xmitReg .r11 0xFF).wellFormed = true ∧
    (Instr.addIvReg ⟨.right, 7⟩ 0 .r0).wellFormed = true := by decide

theorem witness_TableRowsDisjoint :
    (tableRow (.moveRegReg .r1 0 .r2)).holds 0x0102 = true ∧ (tableRow (.moveRegReg .r5 3 .r6)).holds 0x0102 = true := by
  decide

theorem witness_RotateRight : (0 ≤ 7 ∧ 7 ≤ 7) ∧ (0 < 8 ∧ 7 < 8) := by decide

theorem witness_MaskKeepsLowBits : (1 : BitVec 3) ≠ 0 ∧ (7 : BitVec 3) ≠ 0 := by decide

/-- D0 = 6 and L = 3: bits 1 and 3 are the ends of the field, 0 and 4 its neighbours. -/
theorem witness_MergeBits :
    (1 < 8 ∧ 7 - (6 : BitVec 3).toNat ≤ 1) ∧ (3 < 8 ∧ 3 < 7 - (6 : BitVec 3).toNat + fieldLen 3) ∧
    (0 < 8 ∧ ¬7 - (6 : BitVec 3).toNat ≤ 0) ∧ (4 < 8 ∧ ¬4 < 7 - (6 : BitVec 3).toNat + fieldLen 3) := by decide

theorem witness_IvOperandBits : 0 < 8 ∧ 7 < 8 := by decide

theorem witness_RegisterToRegister : Reg.r0.plainDst = true ∧ Reg.r16.plainDst = true := by decide

theorem witness_IvBusToRegister : Reg.r6.plainDst = true ∧ Reg.r11.plainDst = true := by decide

theorem witness_TransmitRegister : Reg.r0.xmitDst = true ∧ Reg.r16.xmitDst = true := by decide

theorem witness_NonZeroRegister :
    demo.readReg .r2 ≠ 0 ∧ demo.readReg .r1 ≠ 0 ∧ demo.readReg .r3 = 0 ∧ demo.readReg .r10 = 0 := by decide

theorem witness_NonZeroIvBus :
    ivOperand (demo.latchByte .left) 0 1 ≠ 0 ∧ ivOperand (demo.latchByte .right) 7 0 ≠ 0 ∧
    ivOperand (demo.latchByte .left) 1 1 = 0 := by decide

theorem witness_StepRunsDecoded :
    (State.reset.withFetchWord 16 0xC92A).runs ∧ (State.reset.withFetchWord 16 0xC92A).inputs = [] ∧
    decode [(State.reset.withFetchWord 16 0xC92A).progByte 0, (State.reset.withFetchWord 16 0xC92A).progByte 1] =
      .ok (.xmitReg .r11 0x2A, []) := by
  unfold State.runs; decide

theorem witness_ResetCycle : { demo with inputs := [⟨true, true, []⟩] }.resetLow = true := by decide

theorem witness_HaltCycle :
    { demo with inputs := [⟨false, true, []⟩] }.resetLow = false ∧
    { demo with inputs := [⟨false, true, []⟩] }.haltLow = true ∧
    { demo with inputs := [⟨false, true, []⟩] }.cycleInput.ports = [] := by decide

/-- A jump to address 0 at address 0, with RESET low in some of the coming cycles. -/
def resetting (a b : Bool) : State :=
  { State.reset.withFetchWord 16 0xE000 with inputs := [⟨a, false, []⟩, ⟨b, false, []⟩] }

/-- RESET low, then high; low twice; high twice; high, then low. -/
theorem witness_ResumptionPulse :
    (∃ t u, step (resetting true false) = .next t ∧ step t = .next u ∧ t.resetLow = false) ∧
    (∃ t u, step (resetting true true) = .next t ∧ step t = .next u ∧ t.resetLow = true) ∧
    (∃ t u, step (resetting false false) = .next t ∧ step t = .next u ∧ t.resetLow = false) ∧
    (∃ t u, step (resetting false true) = .next t ∧ step t = .next u ∧ t.resetLow = true) :=
  ⟨⟨_, _, rfl, rfl, rfl⟩, ⟨_, _, rfl, rfl, rfl⟩, ⟨_, _, rfl, rfl, rfl⟩, ⟨_, _, rfl, rfl, rfl⟩⟩

theorem witness_StepTotal :
    (State.reset.withFetchWord 16 0x0008).runs ∧
    (decodeWord (State.reset.withFetchWord 16 0x0008).takeInput.fetchWord).reserved = true := by
  unfold State.runs; decide

theorem witness_EveryFormCompletes :
    (Instr.xorIvAddr ⟨.left, 3⟩ 1 .right).wellFormed = true ∧ (Instr.xorIvAddr ⟨.left, 3⟩ 1 .right).reserved = false ∧
    (Instr.xmitReg .r11 0).wellFormed = true ∧ (Instr.xmitReg .r11 0).reserved = false := by decide

theorem demo_inv : demo.Inv where
  mem := by decide
  pulse := rfl
  sel := by intro b a _; cases b <;> simp [State.portKind, State.bank, demo, atAddr, State.setAddrs, bench, kindOf]
  page := rfl

theorem witness_StepKeepsInvariant :
    ∃ t, (demo.withFetchWord 16 0x8220).Inv ∧ step (demo.withFetchWord 16 0x8220) = .next t :=
  ⟨_, ⟨by decide, demo_inv.sel, rfl, rfl⟩, rfl⟩

theorem witness_StepKeepsProgram : ∃ t, step (demo.withFetchWord 16 0xCA5A) = .next t := ⟨_, rfl⟩

/-- A sum of 255 and one of 256, and an instruction that is no ADD. -/
theorem witness_OverflowOnlyByAdd :
    (∃ t, exec (.addRegReg .r1 0 .r3) demo = .next t) ∧ addOperand (.addRegReg .r1 0 .r3) demo = some 0x80 ∧
    (∃ t, exec (.addIvReg ⟨.right, 7⟩ 0 .r3) demo = .next t) ∧
    addOperand (.addIvReg ⟨.right, 7⟩ 0 .r3) demo = some 0x81 ∧
    (∃ t, exec (.moveRegReg .r1 0 .r3) demo = .next t) ∧ addOperand (.moveRegReg .r1 0 .r3) demo = none :=
  ⟨of_completes rfl, rfl, of_completes rfl, rfl, of_completes rfl, rfl⟩

/-- A select on the Left Bank, a write to it, and a read only. -/
theorem witness_PortsChangeOnlyByBusEvents :
    (nextState (exec (.xmitAddr .left 0x21) demo)).map (fun t => t.bus.output) = some (some (.select .left 0x21)) ∧
    (nextState (exec (.xmitIv8 .left 0x21) demo)).map (fun t => t.bus.output) = some (some (.write .left 0x21)) ∧
    demo.writeTarget .left = some 0x10 ∧
    (nextState (exec (.moveIvReg ⟨.left, 7⟩ 0 .r3) demo)).map (fun t => t.bus.output) = some none := by decide

theorem witness_AddressesDifferOnlyAfterExecute :
    (∃ t, exec (.jmp 0x1FFF) demo = .next t) ∧ isXec (.jmp 0x1FFF) = false ∧
    (∃ t, exec (.xecReg .r2 0xFF) demo = .next t) ∧ isXec (.xecReg .r2 0xFF) = true :=
  ⟨of_completes rfl, rfl, of_completes rfl, rfl⟩

/-- The targets of an XEC, one for each clause. -/
theorem witness_ExecuteTarget :
    isXec (.xecReg .r2 0x1F) = true ∧
    (∀ i ∈ [Instr.addRegReg .r1 0 .r3, .jmp 0x1FFF, .nztReg .r1 0xFF, .nztReg .r3 0xFF, .nztIv ⟨.left, 0⟩ 1 0x1F,
      .nztIv ⟨.left, 1⟩ 1 0x1F, .xecReg .r3 0xFF], complete2 (.xecReg .r2 0x1F) i demo = true) ∧
    sequential (.addRegReg .r1 0 .r3) = true ∧ demo.readReg .r1 ≠ 0 ∧ demo.readReg .r3 = 0 ∧
    ivOperand (demo.latchByte .left) 0 1 ≠ 0 ∧ ivOperand (demo.latchByte .left) 1 1 = 0 := by decide

theorem witness_BusTable :
    (∃ t, exec (.moveIvIv ⟨.left, 3⟩ 2 ⟨.right, 7⟩) demo = .next t) ∧
    (Instr.moveIvIv ⟨.left, 3⟩ 2 ⟨.right, 7⟩).wellFormed = true ∧
    (∃ t, exec (.xmitAddr .right 0xFF) demo = .next t) ∧ (Instr.xmitAddr .right 0xFF).wellFormed = true :=
  ⟨of_completes rfl, rfl, of_completes rfl, rfl⟩

theorem witness_OnlyDestinationChanges :
    (∃ t, exec (.moveRegReg .r1 0 .r3) demo = .next t) ∧ destReg (.moveRegReg .r1 0 .r3) ≠ some .r1 ∧ Reg.r1 ≠ .r10 :=
  ⟨of_completes rfl, by decide, by decide⟩

theorem witness_TransmitCannotLoad :
    Reg.r11.xmitDst = true ∧ Instr.xmitIv8 .left 0xFF ∈
      [Instr.xmitReg .r11 0xFF, .xmitAddr .left 0xFF, .xmitIv8 .left 0xFF, .xmitIv ⟨.left, 7⟩ 0 0x1F] ∧
    Reg.r12 ∈ [Reg.r10, .r12, .r13] ∧ ∃ t, exec (.xmitIv8 .left 0xFF) demo = .next t :=
  ⟨rfl, by decide, by decide, of_completes rfl⟩

theorem witness_RegisterWrite :
    (Reg.r0.plainDst = true ∧ Reg.r16.plainDst = true) ∧
    (Reg.r7 = Bank.left.addrReg ∧ Reg.r17 = Bank.right.addrReg) ∧ Reg.r10 = .r10 := by decide

theorem witness_OverflowRegisterRead :
    (∃ t, exec (.xecReg .r1 0xFF) demo = .next t) ∧ addOperand (.xecReg .r1 0xFF) demo = none :=
  ⟨of_completes rfl, rfl⟩

/-- A port that can be read, no port selected, and a port that cannot be read. -/
theorem witness_ReadTakesSelectedPort :
    ((demo.bank .left).sel = some 0x10 ∧ (demo.portKind .left 0x10).readable = true) ∧
    (State.reset.bank .left).sel = none ∧
    ({ demo with left := ⟨some 0x10, [], [(0x10, .writeOnly)]⟩ }.portKind .left 0x10).readable = false := by decide

theorem witness_SelectThenRead :
    Reg.r3.plainDst = true ∧ (demo.portKind .right 0xFF).readable = true ∧
    ∃ t u, exec (.xmitAddr .right 0xFF) demo = .next t ∧ exec (.moveIvReg ⟨.right, 7⟩ 0 .r3) t = .next u :=
  ⟨rfl, rfl, of_complete2 rfl⟩

theorem witness_WriteThenRead :
    Reg.r3.plainDst = true ∧ (demo.bank .left).sel = some 0x10 ∧ demo.portKind .left 0x10 = .readWrite ∧
    ∃ t u, exec (.xmitIv8 .left 0xA5) demo = .next t ∧ exec (.moveIvReg ⟨.left, 7⟩ 0 .r3) t = .next u :=
  ⟨rfl, rfl, rfl, of_complete2 rfl⟩

theorem witness_CoprocessorWordsDoNothing : (0x0505 : Word) ∈ [0x0505, 0x0404, 0x0606, 0x0303, (0x0202 : Word)] := by decide

end Sys2Proof.Tests
end

