-- ==== Sys2Proof/Proofs/DataPath.lean ====
section
/-! PROOFS. The data path's bit functions (spec/00_scope.md R8 to R13): each function bit by bit or as a number, then the
statements about rotation, masking, merging and addition. -/

namespace Sys2Proof.Proofs
open Sys2Proof.Machine

/-! ## Rotation (R8) -/

theorem toNat_rotr8 (v : Byte) (n : Nat) :
    (rotr8 v n).toNat = ((v.toNat >>> n) ||| (v.toNat <<< (8 - n))) &&& 0xFF := by
  have hright : (v.toNat >>> n) % 2 ^ 8 = v.toNat >>> n :=
    Nat.mod_eq_of_lt ((Nat.shiftRight_le _ _).trans_lt v.isLt)
  calc (rotr8 v n).toNat = (v.toNat >>> n) ||| (v.toNat <<< (8 - n) % 2 ^ 8) := by
        simp only [rotr8, BitVec.toNat_or, BitVec.toNat_ushiftRight, BitVec.toNat_shiftLeft]
    _ = ((v.toNat >>> n) ||| (v.toNat <<< (8 - n))) % 2 ^ 8 := by rw [Nat.or_mod_two_pow, hright]
    _ = ((v.toNat >>> n) ||| (v.toNat <<< (8 - n))) &&& 0xFF := (Nat.and_two_pow_sub_one_eq_mod _ 8).symm

@[simp] theorem rotr8_zero (v : Byte) : rotr8 v 0 = v := by simp [rotr8]

/-- The right shift gives the bits that stay within the byte, the left shift those that re-enter at its top. -/
theorem getLsbD_rotr8 (v : Byte) {n k : Nat} (hn : n ≤ 7) (hk : k < 8) :
    (rotr8 v n).getLsbD k = v.getLsbD ((k + n) % 8) := by
  simp only [rotr8, BitVec.getLsbD_or, BitVec.getLsbD_ushiftRight, BitVec.getLsbD_shiftLeft]
  by_cases hstay : k + n < 8
  · have hleft : k < 8 - n := by omega
    simp [Nat.mod_eq_of_lt hstay, hleft, Nat.add_comm n k]
  · have hleft : ¬ k < 8 - n := by omega
    have hwrap : (k + n) % 8 = k - (8 - n) := by omega
    have hout : v.getLsbD (n + k) = false := BitVec.getLsbD_of_ge v _ (by omega)
    simp [hk, hleft, hwrap, hout]

/-! ## Field length and masks (R9, R10) -/

@[simp] theorem fieldLen_zero : fieldLen 0 = 8 := rfl

theorem fieldLen_of_ne_zero {l : BitVec 3} (h : l ≠ 0) : fieldLen l = l.toNat := if_neg h

theorem fieldLen_le (l : BitVec 3) : fieldLen l ≤ 8 := by
  by_cases h : l = 0
  · rw [h, fieldLen_zero]
  · have := l.isLt
    rw [fieldLen_of_ne_zero h]
    omega

theorem toNat_lowmask (l : BitVec 3) : (lowmask l).toNat = 2 ^ fieldLen l - 1 := by
  have hpow : 2 ^ fieldLen l ≤ 2 ^ 8 := Nat.pow_le_pow_right (by decide) (fieldLen_le l)
  rw [lowmask, BitVec.toNat_ofNat, Nat.mod_eq_of_lt (by omega)]

@[simp] theorem getLsbD_lowmask (l : BitVec 3) (k : Nat) : (lowmask l).getLsbD k = decide (k < fieldLen l) := by
  rw [BitVec.getLsbD, toNat_lowmask, Nat.testBit_two_pow_sub_one]

@[simp] theorem getLsbD_maskField (v : Byte) (l : BitVec 3) (k : Nat) :
    (maskField v l).getLsbD k = (decide (k < fieldLen l) && v.getLsbD k) := by
  rw [maskField, BitVec.getLsbD_and, getLsbD_lowmask, Bool.and_comm]

/-! ## Shift and merge (R11, R12) -/

theorem getLsbD_shl8 (v : Byte) (n : Nat) {k : Nat} (hk : k < 8) :
    (shl8 v n).getLsbD k = (decide (n ≤ k) && v.getLsbD (k - n)) := by
  have hlow : (!decide (k < n)) = decide (n ≤ k) := by rw [← decide_not, decide_eq_decide, Nat.not_lt]
  rw [shl8, BitVec.getLsbD_shiftLeft, decide_eq_true hk, Bool.true_and, hlow]

theorem fieldMask_eq_shl8 (l pos : BitVec 3) : fieldMask l pos = shl8 (lowmask l) (fieldShift pos) := rfl

/-- Within the byte, the bits that Merge replaces are those of the field; `k < 8` is where the cut-off of D19 stands. -/
theorem getLsbD_fieldMask (l pos : BitVec 3) {k : Nat} (hk : k < 8) :
    (fieldMask l pos).getLsbD k = decide (fieldShift pos ≤ k ∧ k < fieldShift pos + fieldLen l) := by
  rw [fieldMask_eq_shl8, getLsbD_shl8 _ _ hk, getLsbD_lowmask, ← Bool.decide_and, decide_eq_decide]
  omega

theorem getLsbD_merge (latch v : Byte) (l pos : BitVec 3) {k : Nat} (hk : k < 8) :
    (merge latch v l pos).getLsbD k =
      if fieldShift pos ≤ k ∧ k < fieldShift pos + fieldLen l then v.getLsbD (k - fieldShift pos)
      else latch.getLsbD k := by
  simp only [merge, BitVec.getLsbD_or, BitVec.getLsbD_and, BitVec.getLsbD_not, getLsbD_shl8 _ _ hk,
    getLsbD_fieldMask l pos hk]
  split
  next hin => simp [hin]
  next hout => simp [hout, hk]

/-! ## Addition (R13) -/

@[simp] theorem toNat_add8_fst (a b : Byte) : (add8 a b).1.toNat = (a.toNat + b.toNat) % 256 := BitVec.toNat_add a b

@[simp] theorem add8_snd_iff (a b : Byte) : (add8 a b).2 = true ↔ 255 < a.toNat + b.toNat := decide_eq_true_iff

/-! ## The statements -/

/-- Settles O9: inside the field the shifted value passes the field mask, outside it the latch does. -/
theorem mergeBits : Obligations.MergeBits := by
  intro latch v l pos k hk
  exact getLsbD_merge latch v l pos hk

/-- Settles O7: R8's formula as a number, rotation by nothing, and the rule for each bit. -/
theorem rotateRight : Obligations.RotateRight := by
  intro v n hn
  exact ⟨toNat_rotr8 v n, rotr8_zero v, fun _ hk => getLsbD_rotr8 v hn hk⟩

/-- Settles O8: the two cases of a length, the mask as a number, and the masked byte bit by bit. -/
theorem maskKeepsLowBits : Obligations.MaskKeepsLowBits :=
  ⟨fieldLen_zero, fun _ => fieldLen_of_ne_zero, toNat_lowmask, getLsbD_maskField⟩

/-- Settles O11: the sum is the bit vectors' own, the carry the comparison in `add8`. -/
theorem additionAndCarry : Obligations.AdditionAndCarry :=
  fun a b => ⟨toNat_add8_fst a b, add8_snd_iff a b⟩

end Sys2Proof.Proofs
end


-- ==== Sys2Proof/Proofs/MachineState.lean ====
section
/-! PROOFS. The machine's state from cycle to cycle (spec/10_state.md): which instruction a step runs, a cycle with RESET
low, what an instruction leaves in PC, AR and OVF, a register write, and the invariant that every step keeps. -/

namespace Sys2Proof.Proofs
open Sys2Proof.Machine

/-! ## Which instruction a step runs (R28, R37) -/

/-- The environment changes ports only, so the word fetched is the one AR addressed before its changes. -/
@[simp] theorem takeInput_fetchWord (s : State) : s.takeInput.fetchWord = s.fetchWord := by
  simp only [State.fetchWord, State.progWord, State.takeInput_ar, State.progByte_congr s.takeInput_prog]

theorem step_of_runs {s : State} (h : s.runs) : step s = exec (decodeWord s.fetchWord) s.takeInput := by
  obtain ⟨hreset, hhalt⟩ := h
  simp [step, hreset, hhalt]

theorem step_of_resetLow {s : State} (h : s.resetLow = true) : step s = .next (resetCycle s.takeInput) :=
  if_pos h

theorem takeInput_of_no_inputs {s : State} (h : s.inputs = []) : s.takeInput = s := by
  have hquiet : s.cycleInput = CycleInput.quiet := by rw [State.cycleInput, h]
  rw [State.takeInput, hquiet, h]
  change { s with inputs := [] } = s
  rw [← h]

theorem withFetchWord_inputs (s : State) (n w : Nat) : (s.withFetchWord n w).inputs = releasePins s.inputs := rfl

theorem withFetchWord_runs (s : State) (n w : Nat) : (s.withFetchWord n w).runs := by
  unfold State.runs State.resetLow State.haltLow State.cycleInput
  rw [withFetchWord_inputs]
  cases s.inputs <;> exact ⟨rfl, rfl⟩

theorem withFetchWord_fetchWord (s : State) (w : Word) : (s.withFetchWord 16 w.toNat).fetchWord = w := by
  have hword : BitVec.ofNat 16 (w.toNat % 2 ^ 16) = w := by
    rw [Nat.mod_eq_of_lt w.isLt, BitVec.ofNat_toNat, BitVec.setWidth_eq]
  calc (s.withFetchWord 16 w.toNat).fetchWord
      = (s.loadWord s.ar (BitVec.ofNat 16 (w.toNat % 2 ^ 16))).progWord s.ar := rfl
    _ = w := by rw [State.loadWord_progWord, hword]

/-! ## Frames outside the chip -/

theorem outsideSame_of_bank {s t : State} (hprog : t.prog = s.prog) (hbank : ∀ b, t.bank b = s.bank b)
    (hinputs : t.inputs = s.inputs) : s.OutsideSame t where
  prog := State.progByte_congr hprog
  port b := State.portByte_congr (by rw [hbank])
  sel b := by rw [hbank]
  kinds b := by rw [hbank]
  inputs := hinputs

theorem portSelected_ivSelect (s : State) (b : Bank) (a : Byte) : s.PortSelected (s.ivSelect b a) b a where
  sel := by rw [State.ivSelect_bank, if_pos rfl]
  other c hc := by rw [State.ivSelect_bank, if_neg hc]
  prog := State.progByte_congr (State.ivSelect_prog s b a)
  port c x := State.ivSelect_portByte s b c a x
  kinds c := State.ivSelect_kinds s b c a
  inputs := State.ivSelect_inputs s b a

@[simp] theorem resetCycle_bank (s : State) (b : Bank) : (resetCycle s).bank b = s.bank b := by cases b <;> rfl

/-! ## PC and AR (R29, R30) -/

theorem onNext_eq_next {o : Host.Outcome State Fault Refusal} {f : State → State} {t : State}
    (h : onNext o f = .next t) : ∃ u, o = .next u ∧ t = f u := by
  cases o with
  | next u => cases h; exact ⟨u, rfl, rfl⟩
  | fault r => cases h
  | refused r => cases h

theorem writeReg_next {r : Reg} {v : Byte} {s t : State} (h : writeReg r v s = .next t) :
    t.pc = s.pc ∧ t.ovf = s.ovf := by
  rcases reg_dst_cases r with hplain | ⟨b, rfl⟩ | rfl
  · rw [writeReg_plain _ _ hplain] at h
    cases h
    exact ⟨rfl, rfl⟩
  · rw [writeReg_addr] at h
    cases h
    simp
  · cases h

theorem writeReg_seqNext_pc_ar {r : Reg} {v : Byte} {s t : State}
    (h : onNext (writeReg r v s) State.seqNext = .next t) : t.pc = s.pc + 1 ∧ t.ar = s.pc + 1 := by
  obtain ⟨u, hu, rfl⟩ := onNext_eq_next h
  obtain ⟨hpc, -⟩ := writeReg_next hu
  simp [hpc]

theorem finishReg_pc_ar {op : AluOp} {a : Byte} {dst : Reg} {s t : State} (h : finishReg op a dst s = .next t) :
    t.pc = s.pc + 1 ∧ t.ar = s.pc + 1 :=
  writeReg_seqNext_pc_ar (s := s.aluFlags op a) h

theorem finishIv_pc_ar {op : AluOp} {a latch : Byte} {len : BitVec 3} {dst : IvField} {s t : State}
    (h : finishIv op a latch len dst s = .next t) : t.pc = s.pc + 1 ∧ t.ar = s.pc + 1 := by
  cases h
  simp

/-- Every MOVE, ADD, AND, XOR and XMIT that completes ends with `SeqNext()` (R30). -/
theorem exec_sequential {i : Instr} {s t : State} (hseq : sequential i = true) (h : exec i s = .next t) :
    t.pc = s.pc + 1 ∧ t.ar = s.pc + 1 := by
  cases i
  case moveRegReg | addRegReg | andRegReg | xorRegReg | moveRegAddr | addRegAddr | andRegAddr | xorRegAddr =>
    exact finishReg_pc_ar (s := s.noRead) h
  case moveIvReg | addIvReg | andIvReg | xorIvReg | moveIvAddr | addIvAddr | andIvAddr | xorIvAddr =>
    exact finishReg_pc_ar (s := s.ivRead _) h
  case moveRegIv | addRegIv | andRegIv | xorRegIv | moveIvIv | addIvIv | andIvIv | xorIvIv =>
    exact finishIv_pc_ar (s := s.ivRead _) h
  case moveReserved | addReserved | andReserved | xorReserved | xmitReserved => cases h
  case xmitReg | xmitAddr => exact writeReg_seqNext_pc_ar (s := s.noRead) h
  case xmitIv8 | xmitIv => cases h; simp
  case xecReg | xecIv | nztReg | nztIv | jmp => cases hseq

theorem nonzeroTo_ar_eq_pc (s : State) (v : Byte) (a : ProgAddr) : (s.nonzeroTo v a).ar = (s.nonzeroTo v a).pc := by
  by_cases hv : v = 0
  · rw [State.nonzeroTo_zero s a hv]; rfl
  · rw [State.nonzeroTo_nonzero s a hv]; rfl

theorem exec_ar_eq_pc {i : Instr} {s t : State} (hxec : isXec i = false) (h : exec i s = .next t) : t.ar = t.pc := by
  cases hseq : sequential i with
  | true =>
    obtain ⟨hpc, har⟩ := exec_sequential hseq h
    rw [har, hpc]
  | false =>
    cases i
    case nztReg | nztIv => cases h; exact nonzeroTo_ar_eq_pc _ _ _
    case jmp => cases h; rfl
    case xecReg | xecIv => cases hxec
    all_goals cases hseq

theorem executeAt_page8_samePage (s : State) (x : BitVec 8) : (s.executeAt (page8 s.pc x)).samePage := by
  have hx := x.isLt
  rw [State.samePage, State.executeAt_ar, State.executeAt_pc, page8_toNat]
  omega

/-- A 32-word page lies within one 256-word page. -/
theorem executeAt_page5_samePage (s : State) (x : BitVec 5) : (s.executeAt (page5 s.pc x)).samePage := by
  have hx := x.isLt
  rw [State.samePage, State.executeAt_ar, State.executeAt_pc, page5_toNat]
  omega

theorem exec_xec {i : Instr} {s t : State} (hxec : isXec i = true) (h : exec i s = .next t) :
    t.pc = s.pc ∧ t.samePage := by
  cases i
  case xecReg => cases h; exact ⟨rfl, executeAt_page8_samePage s.noRead _⟩
  case xecIv src len lit => cases h; exact ⟨rfl, executeAt_page5_samePage (s.ivRead src.bank) _⟩
  all_goals cases hxec

/-! ## OVF (R22, R31) -/

theorem writeReg_seqNext_ovf {r : Reg} {v : Byte} {s t : State}
    (h : onNext (writeReg r v s) State.seqNext = .next t) : t.ovf = s.ovf := by
  obtain ⟨u, hu, rfl⟩ := onNext_eq_next h
  obtain ⟨-, hovf⟩ := writeReg_next hu
  exact hovf

theorem finishReg_ovf {op : AluOp} {a : Byte} {dst : Reg} {s t : State} (h : finishReg op a dst s = .next t) :
    t.ovf = aluOvf op a s.regs.r0 s.ovf :=
  writeReg_seqNext_ovf h

theorem finishIv_ovf {op : AluOp} {a latch : Byte} {len : BitVec 3} {dst : IvField} {s t : State}
    (h : finishIv op a latch len dst s = .next t) : t.ovf = aluOvf op a s.regs.r0 s.ovf := by
  cases h
  simp

theorem nonzeroTo_ovf (s : State) (v : Byte) (a : ProgAddr) : (s.nonzeroTo v a).ovf = s.ovf := by
  by_cases hv : v = 0
  · rw [State.nonzeroTo_zero s a hv]; rfl
  · rw [State.nonzeroTo_nonzero s a hv]; rfl

/-- OVF after any instruction: the carry of an ADD's operand and AUX, otherwise what it was. -/
theorem exec_ovf {i : Instr} {s t : State} (h : exec i s = .next t) :
    t.ovf = ((addOperand i s).map fun a => (add8 a (s.readReg .r0)).2).getD s.ovf := by
  cases i
  case moveRegReg | addRegReg | andRegReg | xorRegReg | moveRegAddr | addRegAddr | andRegAddr | xorRegAddr =>
    exact finishReg_ovf h
  case moveIvReg | addIvReg | andIvReg | xorIvReg | moveIvAddr | addIvAddr | andIvAddr | xorIvAddr =>
    exact finishReg_ovf h
  case moveRegIv | addRegIv | andRegIv | xorRegIv | moveIvIv | addIvIv | andIvIv | xorIvIv =>
    exact finishIv_ovf h
  case moveReserved | addReserved | andReserved | xorReserved | xmitReserved => cases h
  case xmitReg | xmitAddr => exact writeReg_seqNext_ovf (s := s.noRead) h
  case xmitIv8 | xmitIv => cases h; simp [addOperand]
  case nztReg | nztIv => cases h; exact nonzeroTo_ovf _ _ _
  case xecReg | xecIv | jmp => cases h; rfl

theorem exec_ovf_of_add {i : Instr} {s t : State} {a : Byte} (h : exec i s = .next t) (ha : addOperand i s = some a) :
    t.ovf = (add8 a (s.readReg .r0)).2 := by
  rw [exec_ovf h, ha]; rfl

theorem exec_ovf_of_not_add {i : Instr} {s t : State} (h : exec i s = .next t) (hnone : addOperand i s = none) :
    t.ovf = s.ovf := by
  rw [exec_ovf h, hnone]; rfl

theorem readReg_r10 (s : State) : s.readReg .r10 = (BitVec.ofBool s.ovf).setWidth 8 := rfl

theorem toNat_readReg_r10 (s : State) : (s.readReg .r10).toNat = if s.ovf then 1 else 0 := by
  rw [readReg_r10]
  cases s.ovf <;> rfl

theorem getLsbD_readReg_r10 (s : State) : (s.readReg .r10).getLsbD 0 = s.ovf := by
  rw [readReg_r10]
  cases s.ovf <;> rfl

/-! ## Register writes (R24, R25) -/

theorem readReg_setReg_self (s : State) {r : Reg} (v : Byte) (h : r ≠ .r10) : (s.setReg r v).readReg r = v := by
  rw [State.readReg_setReg s r r v h, if_pos rfl]

theorem readReg_setReg_of_ne (s : State) {r q : Reg} (v : Byte) (h : r ≠ .r10) (hq : q ≠ r) :
    (s.setReg r v).readReg q = s.readReg q := by
  rw [State.readReg_setReg s r q v h, if_neg hq]

theorem outsideSame_setReg (s : State) (r : Reg) (v : Byte) : s.OutsideSame (s.setReg r v) :=
  outsideSame_of_bank rfl (State.setReg_bank s r v) rfl

/-- The store before an address select is invisible outside the chip. -/
theorem portSelected_setReg_ivSelect (s : State) (r : Reg) (v : Byte) (b : Bank) (a : Byte) :
    s.PortSelected ((s.setReg r v).ivSelect b a) b a := by
  obtain ⟨hsel, hother, hprog, hport, hkinds, hinputs⟩ := portSelected_ivSelect (s.setReg r v) b a
  have hout := outsideSame_setReg s r v
  exact {
    sel := hsel.trans (State.selected_congr (State.setReg_bank s r v b) a)
    other := fun c hc => (hother c hc).trans (hout.sel c)
    prog := fun n => (hprog n).trans (hout.prog n)
    port := fun c x => (hport c x).trans (hout.port c x)
    kinds := fun c => (hkinds c).trans (hout.kinds c)
    inputs := hinputs.trans hout.inputs }

/-! ## Canonical memories (R50) -/

theorem memWf_iff (s : State) :
    s.memWf = true ↔ s.prog.wf progBytes = true ∧ ∀ b, (s.bank b).ports.wf bankPorts = true := by
  simp only [State.memWf, Bool.and_eq_true, and_assoc]
  refine and_congr_right fun _ => ⟨?_, fun h => ⟨h .left, h .right⟩⟩
  rintro ⟨hl, hr⟩ (_ | _)
  · exact hl
  · exact hr

theorem memWf_congr {s t : State} (hprog : t.prog = s.prog) (hports : ∀ b, (t.bank b).ports = (s.bank b).ports)
    (h : s.memWf = true) : t.memWf = true := by
  rw [memWf_iff] at h ⊢
  simpa only [hprog, hports] using h

theorem setPort_memWf {s : State} (b : Bank) (a v : Byte) (h : s.memWf = true) : (s.setPort b a v).memWf = true := by
  rw [memWf_iff] at h ⊢
  obtain ⟨hprog, hports⟩ := h
  refine ⟨by rwa [State.setPort_prog], fun c => ?_⟩
  rw [State.setPort_bank]
  split
  · exact Memory.wf_write v (hports b) a.isLt
  · exact hports c

theorem portTakes_memWf {s : State} (b : Bank) (v : Byte) (h : s.memWf = true) : (s.portTakes b v).memWf = true := by
  unfold State.portTakes
  split
  · exact h
  · exact setPort_memWf _ _ _ h

theorem ivWrite_memWf {s : State} (b : Bank) (v : Byte) (h : s.memWf = true) : (s.ivWrite b v).memWf = true :=
  memWf_congr rfl (fun c => by rw [State.ivWrite, State.drive_bank]) (portTakes_memWf b v h)

@[simp] theorem ivSelect_ports (s : State) (b c : Bank) (a : Byte) :
    ((s.ivSelect b a).bank c).ports = (s.bank c).ports := by
  rw [State.ivSelect_bank]
  split
  next hc => rw [hc]
  next => rfl

theorem applyChanges_memWf {s : State} (cs : List PortChange) (h : s.memWf = true) :
    (s.applyChanges cs).memWf = true := by
  induction cs generalizing s with
  | nil => exact h
  | cons c cs ih => exact ih (setPort_memWf c.bank c.addr c.data h)

theorem takeInput_memWf {s : State} (h : s.memWf = true) : s.takeInput.memWf = true :=
  memWf_congr rfl (fun b => by rw [State.takeInput_bank]) (applyChanges_memWf s.cycleInput.ports h)

theorem inputPhase_prog {s u : State} (h : InputPhase s u) : u.prog = s.prog := by
  rcases h with rfl | ⟨b, rfl⟩ <;> rfl

theorem inputPhase_bank {s u : State} (h : InputPhase s u) (c : Bank) : u.bank c = s.bank c := by
  rcases h with rfl | ⟨b, rfl⟩
  · exact State.noRead_bank s c
  · exact State.ivRead_bank s b c

theorem inputPhase_memWf {s u : State} (h : InputPhase s u) (hmem : s.memWf = true) : u.memWf = true :=
  memWf_congr (inputPhase_prog h) (fun c => by rw [inputPhase_bank h]) hmem

theorem effect_memWf {u t : State} (h : Effect u t) (hmem : u.memWf = true) : t.memWf = true := by
  cases h with
  | reg o r v => exact memWf_congr rfl (fun c => by simp) hmem
  | addr o b v => exact memWf_congr (by simp) (fun c => by simp) hmem
  | port o b v =>
    have hovf : (u.setOvf o).memWf = true := memWf_congr rfl (fun c => by simp) hmem
    exact memWf_congr rfl (fun c => by simp) (ivWrite_memWf b v hovf)
  | goto pc ar => exact memWf_congr rfl (fun c => by simp) hmem

/-! ## Selected ports exist (R58) -/

theorem selWf_congr {s t : State} (hsel : ∀ b, (t.bank b).sel = (s.bank b).sel)
    (hkinds : ∀ b, (t.bank b).kinds = (s.bank b).kinds) (h : s.selWf) : t.selWf := by
  intro b a hb
  rw [State.portKind_congr (hkinds b)]
  exact h b a (hsel b ▸ hb)

theorem portKind_of_selected {s : State} {b : Bank} {a x : Byte} (h : s.selected b a = some x) :
    s.portKind b x ≠ .absent := by
  unfold State.selected at h
  split at h
  · cases h
  · cases h; assumption

theorem ivSelect_selWf {s : State} (b : Bank) (a : Byte) (h : s.selWf) : (s.ivSelect b a).selWf := by
  have hselected := portSelected_ivSelect s b a
  intro c x hc
  rw [State.portKind_congr (hselected.kinds c)]
  by_cases hcb : c = b
  · subst hcb
    exact portKind_of_selected (hselected.sel ▸ hc)
  · exact h c x (hselected.other c hcb ▸ hc)

theorem takeInput_selWf {s : State} (h : s.selWf) : s.takeInput.selWf :=
  selWf_congr s.takeInput_sel s.takeInput_kinds h

theorem inputPhase_selWf {s u : State} (h : InputPhase s u) (hsel : s.selWf) : u.selWf :=
  selWf_congr (fun c => by rw [inputPhase_bank h]) (fun c => by rw [inputPhase_bank h]) hsel

theorem effect_selWf {u t : State} (h : Effect u t) (hsel : u.selWf) : t.selWf := by
  cases h with
  | reg o r v => exact selWf_congr (fun c => by simp) (fun c => by simp) hsel
  | addr o b v =>
    have hstored : ((u.setOvf o).setReg b.addrReg v).selWf := selWf_congr (fun c => by simp) (fun c => by simp) hsel
    exact selWf_congr (fun c => by simp) (fun c => by simp) (ivSelect_selWf b v hstored)
  | port o b v => exact selWf_congr (fun c => by simp) (fun c => by simp) hsel
  | goto pc ar => exact selWf_congr (fun c => by simp) (fun c => by simp) hsel

/-! ## The invariant -/

theorem samePage_of_ar_eq_pc {s : State} (h : s.ar = s.pc) : s.samePage := by
  rw [State.samePage, h]

theorem exec_samePage {i : Instr} {s t : State} (h : exec i s = .next t) : t.samePage := by
  cases hxec : isXec i with
  | true => exact (exec_xec hxec h).right
  | false => exact samePage_of_ar_eq_pc (exec_ar_eq_pc hxec h)

/-- Every instruction runs in a cycle with its MCLK pulse, after which none is due. -/
theorem exec_pulseMatches {i : Instr} {s t : State} (h : exec i s = .next t) : t.pulseMatches := by
  obtain ⟨u, hin, heff⟩ := exec_effect h
  obtain ⟨hmclk, -, hdue⟩ := inputPhase_pulse hin
  obtain ⟨-, hmclk', -, hdue'⟩ := effect_bus heff
  rw [State.pulseMatches, hdue', hdue, hmclk', hmclk]
  rfl

/-- Of the invariant an instruction needs only what it keeps outside the chip; AR's page and the pulse it sets anew. -/
theorem exec_inv {i : Instr} {s t : State} (hmem : s.memWf = true) (hsel : s.selWf) (h : exec i s = .next t) :
    t.Inv := by
  obtain ⟨u, hin, heff⟩ := exec_effect h
  exact {
    mem := effect_memWf heff (inputPhase_memWf hin hmem)
    sel := effect_selWf heff (inputPhase_selWf hin hsel)
    page := exec_samePage h
    pulse := exec_pulseMatches h }

theorem resetCycle_inv {s : State} (hmem : s.memWf = true) (hsel : s.selWf) : (resetCycle s).Inv where
  mem := memWf_congr rfl (fun b => by rw [resetCycle_bank]) hmem
  sel := selWf_congr (fun b => by rw [resetCycle_bank]) (fun b => by rw [resetCycle_bank]) hsel
  page := samePage_of_ar_eq_pc rfl
  pulse := rfl

theorem haltCycle_inv {s : State} (hmem : s.memWf = true) (hsel : s.selWf) (hpage : s.samePage) :
    (haltCycle s).Inv where
  mem := inputPhase_memWf (inputPhase_noRead s) hmem
  sel := inputPhase_selWf (inputPhase_noRead s) hsel
  page := hpage
  pulse := rfl

/-! ## The statements -/

/-- Settles O35, by the three kinds of cycle a step can be: RESET low, HALT low, or an instruction. -/
theorem stepKeepsInvariant : Obligations.StepKeepsInvariant := by
  rintro s t ⟨hmem, hsel, hpage, -⟩ hstep
  have hmem' := takeInput_memWf hmem
  have hsel' := takeInput_selWf hsel
  rcases step_cases hstep with ⟨-, rfl⟩ | ⟨-, -, rfl⟩ | ⟨-, -, hexec⟩
  · exact resetCycle_inv hmem' hsel'
  · have hpage' : s.takeInput.samePage := by
      rwa [State.samePage, State.takeInput_ar, State.takeInput_pc]
    exact haltCycle_inv hmem' hsel' hpage'
  · exact exec_inv hmem' hsel' hexec

/-- Settles O31: the step is `resetCycle`, which writes PC, AR, the bus record and the pulse that is due. (The plain name
would hide the model's own `resetCycle` in this namespace.) -/
theorem resetCycle_spec : Obligations.ResetCycle := by
  intro s hreset
  refine ⟨_, step_of_resetLow hreset, rfl, rfl, ⟨fun r _ => ?_, ?_⟩, rfl, rfl, ?_, ?_⟩
  · exact State.readReg_congr s.takeInput_regs s.takeInput_ovf r
  · exact s.takeInput_ovf
  · exact outsideSame_of_bank rfl (resetCycle_bank s.takeInput) rfl
  · exact s.takeInput_floats

/-- Settles O38, from the one rule for OVF and the place of OVF in R10. -/
theorem overflowOnlyByAdd : Obligations.OverflowOnlyByAdd :=
  fun _ _ t h => ⟨fun _ ha => exec_ovf_of_add h ha, exec_ovf_of_not_add h, getLsbD_readReg_r10 t⟩

/-- Settles O42, by the class of the instruction. -/
theorem addressesDifferOnlyAfterExecute : Obligations.AddressesDifferOnlyAfterExecute :=
  fun _ _ _ h => ⟨fun hxec => exec_ar_eq_pc hxec h, fun hxec => exec_xec hxec h⟩

/-- Settles O47, by the three kinds of destination: an ordinary register, an address register, R10. -/
theorem registerWrite : Obligations.RegisterWrite := by
  intro r v s
  refine ⟨fun hplain => ?_, ?_, ?_⟩
  · have hr := reg_plainDst_ne_r10 hplain
    exact ⟨_, writeReg_plain v s hplain, readReg_setReg_self s v hr, fun q hq => readReg_setReg_of_ne s v hr hq,
      rfl, rfl, outsideSame_setReg s r v, rfl⟩
  · rintro b rfl
    have hr := bank_addrReg_ne_r10 b
    refine ⟨_, writeReg_addr b v s, ?_, fun q hq => ?_, ?_, ?_, portSelected_setReg_ivSelect s _ v b v, ?_⟩
    · rw [State.readReg_ivSelect, readReg_setReg_self s v hr]
    · rw [State.readReg_ivSelect, readReg_setReg_of_ne s v hr hq]
    · rw [State.ivSelect_pc, State.setReg_pc]
    · rw [State.ivSelect_ar, State.setReg_ar]
    · rw [State.ivSelect_bus, State.setReg_bus]
  · rintro rfl t h
    cases h

/-- Settles O48: R10's value is a function of OVF, which only an ADD writes. -/
theorem overflowRegisterRead : Obligations.OverflowRegisterRead := by
  refine ⟨toNat_readReg_r10, fun i s t h hnone => ?_⟩
  rw [readReg_r10, readReg_r10, exec_ovf_of_not_add h hnone]

/-- Settles O29: the two bytes at AR are the word fetched, and without inputs the environment changes nothing. -/
theorem stepRunsDecoded : Obligations.StepRunsDecoded := by
  intro s i hruns hdecode
  have hi : decodeWord s.fetchWord = i := (Prod.mk.inj (Except.ok.inj hdecode)).left
  have hstep : step s = exec i s.takeInput := by rw [step_of_runs hruns, hi]
  exact ⟨hstep, fun hinputs => by rw [hstep, takeInput_of_no_inputs hinputs]⟩

/-- Settles O37: the pins are released and the word fetched is the one loaded. -/
theorem withFetchWordRuns : Obligations.WithFetchWordRuns := by
  intro s w
  rw [step_of_runs (withFetchWord_runs s 16 w.toNat), withFetchWord_fetchWord]

/-- Settles O52: addition of 13-bit addresses drops the carry. -/
theorem sequenceWraps : Obligations.SequenceWraps :=
  fun s => ⟨BitVec.toNat_add s.pc 1, rfl⟩

end Sys2Proof.Proofs
end

