-- ==== Sys2Proof/Proofs/MemoryAndBus.lean ====
section
/-! PROOFS. Program storage and the IV bus (spec/20_memory.md): what the environment changes, that program storage is
neither data nor written, what each form does on the bus, and what a read of a bank takes. -/

namespace Sys2Proof.Proofs
open Sys2Proof.Machine

/-! ## The environment's port changes (R67) -/

/-- The changes of one port among those of a cycle. -/
def changesOf (b : Bank) (a : Byte) (cs : List PortChange) : List PortChange :=
  cs.filter fun c => c.bank = b ∧ c.addr = a

theorem changesOf_cons_of_pos {b : Bank} {a : Byte} {c : PortChange} (cs : List PortChange)
    (h : c.bank = b ∧ c.addr = a) : changesOf b a (c :: cs) = c :: changesOf b a cs :=
  List.filter_cons_of_pos (decide_eq_true h)

theorem changesOf_cons_of_neg {b : Bank} {a : Byte} {c : PortChange} (cs : List PortChange)
    (h : ¬(c.bank = b ∧ c.addr = a)) : changesOf b a (c :: cs) = changesOf b a cs :=
  List.filter_cons_of_neg (by simpa using h)

/-- Changes are made in order, so the last one of a port stands. -/
theorem applyChanges_portByte (s : State) (cs : List PortChange) (b : Bank) (a : Byte) :
    (s.applyChanges cs).portByte b a = ((changesOf b a cs).getLast?.map PortChange.data).getD (s.portByte b a) := by
  induction cs generalizing s with
  | nil => rfl
  | cons c cs ih =>
    rw [State.applyChanges, ih, State.setPort_portByte]
    by_cases hc : c.bank = b ∧ c.addr = a
    · rw [changesOf_cons_of_pos cs hc, List.getLast?_cons, if_pos ⟨hc.left.symm, hc.right.symm⟩]
      cases (changesOf b a cs).getLast? <;> rfl
    · rw [changesOf_cons_of_neg cs hc, if_neg fun h => hc ⟨h.left.symm, h.right.symm⟩]

theorem takeInput_portByte (s : State) (b : Bank) (a : Byte) :
    s.takeInput.portByte b a =
      ((changesOf b a s.cycleInput.ports).getLast?.map PortChange.data).getD (s.portByte b a) := by
  rw [← applyChanges_portByte]
  exact State.portByte_congr (congrArg BankState.ports (State.takeInput_bank s b)) a

/-! ## Program storage is constant (R52, R75) -/

theorem effect_prog {u t : State} (h : Effect u t) : t.prog = u.prog := by
  cases h <;> simp

theorem exec_prog {i : Instr} {s t : State} (h : exec i s = .next t) : t.prog = s.prog := by
  obtain ⟨u, hin, heff⟩ := exec_effect h
  rw [effect_prog heff, inputPhase_prog hin]

theorem step_prog {s t : State} (h : step s = .next t) : t.prog = s.prog := by
  rcases step_cases h with ⟨-, rfl⟩ | ⟨-, -, rfl⟩ | ⟨-, -, hexec⟩
  · exact s.takeInput_prog
  · exact s.takeInput_prog
  · rw [exec_prog hexec, State.takeInput_prog]

/-! ## Program storage is not data (R52)

Each operation of an instruction commutes with replacing program storage by other contents. -/

/-- The machine with other contents in program storage. -/
def withProg (p : Memory) (s : State) : State := { s with prog := p }

theorem onNext_comm (o : Host.Outcome State Fault Refusal) {f g : State → State} (h : ∀ u, f (g u) = g (f u)) :
    onNext (onNext o g) f = onNext (onNext o f) g := by
  cases o with
  | next u => exact congrArg _ (h u)
  | fault r => rfl
  | refused r => rfl

theorem withProg_latchByte (p : Memory) (s : State) (b : Bank) : (withProg p s).latchByte b = s.latchByte b := by
  cases b <;> rfl

theorem withProg_readReg (p : Memory) (s : State) (r : Reg) : (withProg p s).readReg r = s.readReg r :=
  State.readReg_congr rfl rfl r

theorem withProg_ivRead (p : Memory) (s : State) (b : Bank) : (withProg p s).ivRead b = withProg p (s.ivRead b) := by
  cases b <;> rfl

theorem withProg_ivSelect (p : Memory) (s : State) (b : Bank) (a : Byte) :
    (withProg p s).ivSelect b a = withProg p (s.ivSelect b a) := by
  cases b <;> rfl

theorem withProg_writeTarget (p : Memory) (s : State) (b : Bank) :
    (withProg p s).writeTarget b = s.writeTarget b :=
  State.writeTarget_congr (by cases b <;> rfl)

theorem withProg_setPort (p : Memory) (s : State) (b : Bank) (a v : Byte) :
    (withProg p s).setPort b a v = withProg p (s.setPort b a v) := by
  cases b <;> rfl

theorem withProg_ivWrite (p : Memory) (s : State) (b : Bank) (v : Byte) :
    (withProg p s).ivWrite b v = withProg p (s.ivWrite b v) := by
  simp only [State.ivWrite, State.portTakes, withProg_writeTarget]
  cases s.writeTarget b with
  | none => rfl
  | some a => simp only [withProg_setPort]; rfl

theorem withProg_writeReg (p : Memory) (r : Reg) (v : Byte) (s : State) :
    writeReg r v (withProg p s) = onNext (writeReg r v s) (withProg p) := by
  rcases reg_dst_cases r with hplain | ⟨b, rfl⟩ | rfl
  · rw [writeReg_plain v _ hplain, writeReg_plain v s hplain, onNext_next]
    rfl
  · rw [writeReg_addr, writeReg_addr, onNext_next, ← withProg_ivSelect]
    rfl
  · rfl

theorem withProg_writeReg_seqNext (p : Memory) (r : Reg) (v : Byte) (s : State) :
    onNext (writeReg r v (withProg p s)) State.seqNext =
      onNext (onNext (writeReg r v s) State.seqNext) (withProg p) := by
  rw [withProg_writeReg]
  exact onNext_comm _ fun _ => rfl

theorem withProg_finishReg (p : Memory) (op : AluOp) (a : Byte) (dst : Reg) (s : State) :
    finishReg op a dst (withProg p s) = onNext (finishReg op a dst s) (withProg p) :=
  withProg_writeReg_seqNext p dst _ (s.aluFlags op a)

theorem withProg_ivWrite_seqNext (p : Memory) (s : State) (b : Bank) (v : Byte) :
    ((withProg p s).ivWrite b v).seqNext = withProg p (s.ivWrite b v).seqNext :=
  congrArg State.seqNext (withProg_ivWrite p s b v)

theorem withProg_finishIv (p : Memory) (op : AluOp) (a latch : Byte) (len : BitVec 3) (dst : IvField) (s : State) :
    finishIv op a latch len dst (withProg p s) = onNext (finishIv op a latch len dst s) (withProg p) :=
  congrArg Host.Outcome.next (withProg_ivWrite_seqNext p (s.aluFlags op a) dst.bank _)

theorem withProg_regToReg (p : Memory) (op : AluOp) (src : Reg) (rot : BitVec 3) (dst : Reg) (s : State) :
    regToReg op src rot dst (withProg p s) = onNext (regToReg op src rot dst s) (withProg p) := by
  rw [regToReg, withProg_readReg]
  exact withProg_finishReg p op _ dst s.noRead

theorem withProg_ivToReg (p : Memory) (op : AluOp) (src : IvField) (len : BitVec 3) (dst : Reg) (s : State) :
    ivToReg op src len dst (withProg p s) = onNext (ivToReg op src len dst s) (withProg p) := by
  rw [ivToReg, withProg_latchByte, withProg_ivRead]
  exact withProg_finishReg p op _ dst (s.ivRead src.bank)

theorem withProg_regToIv (p : Memory) (op : AluOp) (src : Reg) (len : BitVec 3) (dst : IvField) (s : State) :
    regToIv op src len dst (withProg p s) = onNext (regToIv op src len dst s) (withProg p) := by
  rw [regToIv, withProg_readReg, withProg_latchByte, withProg_ivRead]
  exact withProg_finishIv p op _ _ len dst (s.ivRead dst.bank)

theorem withProg_ivToIv (p : Memory) (op : AluOp) (src : IvField) (len : BitVec 3) (dst : IvField) (s : State) :
    ivToIv op src len dst (withProg p s) = onNext (ivToIv op src len dst s) (withProg p) := by
  rw [ivToIv, withProg_latchByte, withProg_ivRead]
  exact withProg_finishIv p op _ _ len dst (s.ivRead src.bank)

theorem withProg_nonzeroTo (p : Memory) (s : State) (v : Byte) (a : ProgAddr) :
    (withProg p s).nonzeroTo v a = withProg p (s.nonzeroTo v a) := by
  by_cases hv : v = 0
  · rw [State.nonzeroTo_zero _ a hv, State.nonzeroTo_zero s a hv]; rfl
  · rw [State.nonzeroTo_nonzero _ a hv, State.nonzeroTo_nonzero s a hv]; rfl

theorem withProg_execXecReg (p : Memory) (src : Reg) (lit : BitVec 8) (s : State) :
    execXecReg src lit (withProg p s) = onNext (execXecReg src lit s) (withProg p) := by
  rw [execXecReg, withProg_readReg]
  rfl

theorem withProg_execXecIv (p : Memory) (src : IvField) (len : BitVec 3) (lit : BitVec 5) (s : State) :
    execXecIv src len lit (withProg p s) = onNext (execXecIv src len lit s) (withProg p) := by
  rw [execXecIv, withProg_latchByte, withProg_ivRead]
  rfl

theorem withProg_execNztReg (p : Memory) (src : Reg) (lit : BitVec 8) (s : State) :
    execNztReg src lit (withProg p s) = onNext (execNztReg src lit s) (withProg p) := by
  rw [execNztReg, withProg_readReg]
  exact congrArg _ (withProg_nonzeroTo p s.noRead _ _)

theorem withProg_execNztIv (p : Memory) (src : IvField) (len : BitVec 3) (lit : BitVec 5) (s : State) :
    execNztIv src len lit (withProg p s) = onNext (execNztIv src len lit s) (withProg p) := by
  rw [execNztIv, withProg_latchByte, withProg_ivRead]
  exact congrArg _ (withProg_nonzeroTo p (s.ivRead src.bank) _ _)

theorem withProg_execXmitIv (p : Memory) (dst : IvField) (len : BitVec 3) (lit : BitVec 5) (s : State) :
    execXmitIv dst len lit (withProg p s) = onNext (execXmitIv dst len lit s) (withProg p) := by
  rw [execXmitIv, withProg_latchByte, withProg_ivRead]
  exact congrArg _ (withProg_ivWrite_seqNext p (s.ivRead dst.bank) _ _)

/-- An instruction does the same whatever program storage holds, and leaves it. -/
theorem withProg_exec (p : Memory) (i : Instr) (s : State) :
    exec i (withProg p s) = onNext (exec i s) (withProg p) := by
  cases i
  case moveRegReg | addRegReg | andRegReg | xorRegReg | moveRegAddr | addRegAddr | andRegAddr | xorRegAddr =>
    exact withProg_regToReg p _ _ _ _ s
  case moveIvReg | addIvReg | andIvReg | xorIvReg | moveIvAddr | addIvAddr | andIvAddr | xorIvAddr =>
    exact withProg_ivToReg p _ _ _ _ s
  case moveRegIv | addRegIv | andRegIv | xorRegIv => exact withProg_regToIv p _ _ _ _ s
  case moveIvIv | addIvIv | andIvIv | xorIvIv => exact withProg_ivToIv p _ _ _ _ s
  case moveReserved | addReserved | andReserved | xorReserved | xmitReserved => rfl
  case xecReg src lit => exact withProg_execXecReg p src lit s
  case xecIv src len lit => exact withProg_execXecIv p src len lit s
  case nztReg src lit => exact withProg_execNztReg p src lit s
  case nztIv src len lit => exact withProg_execNztIv p src len lit s
  case xmitReg | xmitAddr => exact withProg_writeReg_seqNext p _ _ s.noRead
  case xmitIv8 => exact congrArg _ (withProg_ivWrite_seqNext p s.noRead _ _)
  case xmitIv dst len lit => exact withProg_execXmitIv p dst len lit s
  case jmp => rfl

/-! ## The bus record of each form (R56 to R62) -/

/-- What the input phase of a recorded cycle did. -/
def inputUse (c : BusCycle) : BusUse :=
  match c.input with
  | none => .none
  | some (b, _) => .read b

/-- What the output phase of a recorded cycle did. -/
def outputUse (c : BusCycle) : BusUse :=
  match c.output with
  | none => .none
  | some (.select b _) => .select b
  | some (.write b _) => .write b

theorem inputLevels_eq_levels (c : BusCycle) : c.inputLevels = (inputUse c).levels := by
  obtain ⟨_ | ⟨b, v⟩, _, _, _⟩ := c
  · rfl
  · cases b <;> rfl

theorem outputLevels_eq_levels (c : BusCycle) : c.outputLevels = (outputUse c).levels := by
  obtain ⟨_, _ | ⟨b, x⟩ | ⟨b, x⟩, _, _⟩ := c
  · rfl
  · cases b <;> rfl
  · cases b <;> rfl

theorem inputUse_eq_read_iff (c : BusCycle) (b : Bank) : inputUse c = .read b ↔ ∃ v, c.input = some (b, v) := by
  obtain ⟨_ | ⟨b', v⟩, _, _, _⟩ := c <;> simp [inputUse]

theorem outputUse_eq_select_iff (c : BusCycle) (b : Bank) :
    outputUse c = .select b ↔ ∃ a, c.output = some (.select b a) := by
  obtain ⟨_, _ | ⟨b', x⟩ | ⟨b', x⟩, _, _⟩ := c <;> simp [outputUse]

theorem outputUse_eq_write_iff (c : BusCycle) (b : Bank) :
    outputUse c = .write b ↔ ∃ v, c.output = some (.write b v) := by
  obtain ⟨_, _ | ⟨b', x⟩ | ⟨b', x⟩, _, _⟩ := c <;> simp [outputUse]

theorem levels_not_sc_and_wc (u : BusUse) : ¬(u.levels.sc = true ∧ u.levels.wc = true) := by
  rcases u with _ | (_ | _) | (_ | _) | (_ | _) <;> simp [BusUse.levels]

theorem writeReg_seqNext_bus_of_plain {r : Reg} {v : Byte} {s t : State} (hplain : r.plainDst = true)
    (h : onNext (writeReg r v s) State.seqNext = .next t) : t.bus = s.bus := by
  rw [writeReg_plain v s hplain] at h
  cases h
  rfl

theorem writeReg_seqNext_bus_of_addr {b : Bank} {v : Byte} {s t : State}
    (h : onNext (writeReg b.addrReg v s) State.seqNext = .next t) :
    t.bus = { s.bus with output := some (.select b v) } := by
  rw [writeReg_addr] at h
  cases h
  simp

theorem finishReg_bus_of_plain {op : AluOp} {a : Byte} {dst : Reg} {s t : State} (hplain : dst.plainDst = true)
    (h : finishReg op a dst s = .next t) : t.bus = s.bus :=
  writeReg_seqNext_bus_of_plain (s := s.aluFlags op a) hplain h

theorem finishReg_bus_of_addr {op : AluOp} {a : Byte} {b : Bank} {s t : State}
    (h : finishReg op a b.addrReg s = .next t) :
    t.bus = { s.bus with output := some (.select b (aluResult op a s.regs.r0)) } :=
  writeReg_seqNext_bus_of_addr (s := s.aluFlags op a) h

theorem finishIv_bus {op : AluOp} {a latch : Byte} {len : BitVec 3} {dst : IvField} {s t : State}
    (h : finishIv op a latch len dst s = .next t) :
    t.bus = { s.bus with output := some (.write dst.bank (merge latch (aluResult op a s.regs.r0) len dst.pos)) } := by
  cases h
  simp

theorem nonzeroTo_bus (s : State) (v : Byte) (a : ProgAddr) : (s.nonzeroTo v a).bus = s.bus := by
  by_cases hv : v = 0
  · rw [State.nonzeroTo_zero s a hv]; rfl
  · rw [State.nonzeroTo_nonzero s a hv]; rfl

/-- The two phases of every instruction that completes are those of the table of R60. -/
theorem exec_busUse {i : Instr} {s t : State} (hwf : i.wellFormed = true) (h : exec i s = .next t) :
    (inputUse t.bus, outputUse t.bus) = busUse i := by
  cases i
  case moveRegReg | addRegReg | andRegReg | xorRegReg =>
    rw [finishReg_bus_of_plain (s := s.noRead) hwf h]; rfl
  case moveRegAddr | addRegAddr | andRegAddr | xorRegAddr =>
    rw [finishReg_bus_of_addr (s := s.noRead) h]; rfl
  case moveIvReg | addIvReg | andIvReg | xorIvReg =>
    rw [finishReg_bus_of_plain (s := s.ivRead _) hwf h]; rfl
  case moveIvAddr | addIvAddr | andIvAddr | xorIvAddr =>
    rw [finishReg_bus_of_addr (s := s.ivRead _) h]; rfl
  case moveRegIv | addRegIv | andRegIv | xorRegIv | moveIvIv | addIvIv | andIvIv | xorIvIv =>
    rw [finishIv_bus (s := s.ivRead _) h]; rfl
  case moveReserved | addReserved | andReserved | xorReserved | xmitReserved => cases h
  case xecReg | xecIv | jmp => cases h; rfl
  case nztReg | nztIv => cases h; rw [nonzeroTo_bus]; rfl
  case xmitReg =>
    rw [writeReg_seqNext_bus_of_plain (s := s.noRead) (reg_plainDst_of_xmitDst hwf) h]; rfl
  case xmitAddr => rw [writeReg_seqNext_bus_of_addr (s := s.noRead) h]; rfl
  case xmitIv8 | xmitIv => cases h; rw [State.seqNext_bus, State.ivWrite_bus]; rfl

theorem exec_pulse {i : Instr} {s t : State} (h : exec i s = .next t) :
    t.bus.mclk = true ∧ t.bus.pulseBefore = s.pulseDue ∧ t.pulseDue = false := by
  obtain ⟨u, hin, heff⟩ := exec_effect h
  obtain ⟨-, hmclk, hbefore, hdue⟩ := effect_bus heff
  rw [hmclk, hbefore, hdue]
  exact inputPhase_pulse hin

/-! ## What the event of the output phase does to selections and ports (R57 to R59)

The input phase leaves no output event in the record, so an event found there at the end is the effect's own. -/

theorem inputPhase_output {s u : State} (h : InputPhase s u) : u.bus.output = none := by
  rcases h with rfl | ⟨b, rfl⟩ <;> rfl

theorem inputPhase_readReg {s u : State} (h : InputPhase s u) (r : Reg) : u.readReg r = s.readReg r := by
  rcases h with rfl | ⟨b, rfl⟩
  · exact State.readReg_noRead s r
  · exact State.readReg_ivRead s b r

theorem effect_kinds {u t : State} (h : Effect u t) (b : Bank) : (t.bank b).kinds = (u.bank b).kinds := by
  cases h <;> simp

theorem effect_of_select {u t : State} {b : Bank} {a : Byte} (h : Effect u t) (hnone : u.bus.output = none)
    (hout : t.bus.output = some (.select b a)) : (t.bank b).sel = u.selected b a ∧ t.readReg b.addrReg = a := by
  cases h with
  | reg o r v => simp [hnone] at hout
  | addr o c v =>
    obtain ⟨rfl, rfl⟩ : c = b ∧ v = a := by simpa using hout
    have hchosen := portSelected_setReg_ivSelect (u.setOvf o) c.addrReg v c v
    rw [State.seqNext_bank, State.readReg_seqNext, State.readReg_ivSelect]
    exact ⟨hchosen.sel.trans (State.selected_congr (State.setOvf_bank u o c) v),
      readReg_setReg_self _ v (bank_addrReg_ne_r10 c)⟩
  | port o c v => simp at hout
  | goto pc ar => simp [hnone] at hout

theorem effect_of_no_select {u t : State} {b : Bank} (h : Effect u t)
    (hout : ∀ a, t.bus.output ≠ some (.select b a)) :
    (t.bank b).sel = (u.bank b).sel ∧ t.readReg b.addrReg = u.readReg b.addrReg := by
  have hb := bank_addrReg_ne_r10 b
  cases h with
  | reg o r v hplain =>
    rw [State.readReg_seqNext, readReg_setReg_of_ne _ v (reg_plainDst_ne_r10 hplain)
      (reg_plainDst_ne_addrReg hplain b).symm, State.readReg_setOvf u o hb]
    simp
  | addr o c v =>
    have hbc : b ≠ c := by rintro rfl; exact hout v (by simp)
    have hreg : b.addrReg ≠ c.addrReg := fun heq => hbc (bank_addrReg_injective heq)
    rw [State.readReg_seqNext, State.readReg_ivSelect, readReg_setReg_of_ne _ v (bank_addrReg_ne_r10 c) hreg,
      State.readReg_setOvf u o hb]
    simp [State.ivSelect_bank, hbc]
  | port o c v =>
    rw [State.readReg_seqNext, State.readReg_ivWrite, State.readReg_setOvf u o hb]
    simp
  | goto pc ar => simp

/-- The write event alone decides which port's byte changes. -/
theorem effect_portByte {u t : State} (h : Effect u t) (hnone : u.bus.output = none) (b : Bank) (a : Byte) :
    (∃ v, t.bus.output = some (.write b v) ∧ u.writeTarget b = some a ∧ t.portByte b a = v) ∨
    ((∀ v, t.bus.output = some (.write b v) → u.writeTarget b ≠ some a) ∧ t.portByte b a = u.portByte b a) := by
  cases h with
  | reg o r v => exact Or.inr (by simp [hnone])
  | addr o c v => exact Or.inr (by simp [State.ivSelect_portByte])
  | port o c v =>
    have htarget := State.writeTarget_congr (State.setOvf_bank u o c)
    have hbyte : ((u.setOvf o).ivWrite c v).seqNext.portByte b a =
        if b = c ∧ u.writeTarget c = some a then v else u.portByte b a := by
      rw [State.seqNext_portByte, State.ivWrite_portByte, htarget, State.setOvf_portByte]
    by_cases hhit : b = c ∧ u.writeTarget c = some a
    · obtain ⟨rfl, ha⟩ := hhit
      exact Or.inl ⟨v, by simp, ha, by rw [hbyte, if_pos ⟨rfl, ha⟩]⟩
    · refine Or.inr ⟨fun w hout ha => ?_, by rw [hbyte, if_neg hhit]⟩
      obtain ⟨rfl, -⟩ : c = b ∧ v = w := by simpa using hout
      exact hhit ⟨rfl, ha⟩
  | goto pc ar => exact Or.inr (by simp [hnone])

theorem exec_kinds {i : Instr} {s t : State} (h : exec i s = .next t) (b : Bank) :
    (t.bank b).kinds = (s.bank b).kinds := by
  obtain ⟨u, hin, heff⟩ := exec_effect h
  rw [effect_kinds heff, inputPhase_bank hin]

theorem exec_of_select {i : Instr} {s t : State} {b : Bank} {a : Byte} (h : exec i s = .next t)
    (hout : t.bus.output = some (.select b a)) : (t.bank b).sel = s.selected b a ∧ t.readReg b.addrReg = a := by
  obtain ⟨u, hin, heff⟩ := exec_effect h
  rw [← State.selected_congr (inputPhase_bank hin b)]
  exact effect_of_select heff (inputPhase_output hin) hout

theorem exec_of_no_select {i : Instr} {s t : State} {b : Bank} (h : exec i s = .next t)
    (hout : ∀ a, t.bus.output ≠ some (.select b a)) :
    (t.bank b).sel = (s.bank b).sel ∧ t.readReg b.addrReg = s.readReg b.addrReg := by
  obtain ⟨u, hin, heff⟩ := exec_effect h
  rw [← inputPhase_bank hin, ← inputPhase_readReg hin]
  exact effect_of_no_select heff hout

theorem exec_portByte {i : Instr} {s t : State} (h : exec i s = .next t) (b : Bank) (a : Byte) :
    (∃ v, t.bus.output = some (.write b v) ∧ s.writeTarget b = some a ∧ t.portByte b a = v) ∨
    ((∀ v, t.bus.output = some (.write b v) → s.writeTarget b ≠ some a) ∧ t.portByte b a = s.portByte b a) := by
  obtain ⟨u, hin, heff⟩ := exec_effect h
  have hbank := inputPhase_bank hin b
  rw [← State.writeTarget_congr hbank, ← State.portByte_congr (congrArg BankState.ports hbank)]
  exact effect_portByte heff (inputPhase_output hin) b a

theorem exec_portByte_of_write {i : Instr} {s t : State} {b : Bank} {a v : Byte} (h : exec i s = .next t)
    (hout : t.bus.output = some (.write b v)) (htarget : s.writeTarget b = some a) : t.portByte b a = v := by
  rcases exec_portByte h b a with ⟨w, hw, -, hbyte⟩ | ⟨hmiss, -⟩
  · obtain rfl : v = w := by simpa [hout] using hw
    exact hbyte
  · exact absurd htarget (hmiss v hout)

theorem exec_portByte_of_no_write {i : Instr} {s t : State} {b : Bank} {a : Byte} (h : exec i s = .next t)
    (hout : ∀ v, t.bus.output = some (.write b v) → s.writeTarget b ≠ some a) :
    t.portByte b a = s.portByte b a := by
  rcases exec_portByte h b a with ⟨v, hv, htarget, -⟩ | ⟨-, hbyte⟩
  · exact absurd htarget (hout v hv)
  · exact hbyte

/-! ## What a read of a bank takes (R56, R64) -/

theorem driven_of_readable {s : State} {b : Bank} {a : Byte} (hsel : (s.bank b).sel = some a)
    (hread : (s.portKind b a).readable = true) : s.driven b = some (s.portByte b a) := by
  simp [State.driven, hsel, hread]

theorem driven_eq_none {s : State} {b : Bank}
    (h : ∀ a, (s.bank b).sel = some a → (s.portKind b a).readable = false) : s.driven b = none := by
  unfold State.driven
  split
  next => rfl
  next a hsel => simp [h a hsel]

theorem latchByte_of_readable {s : State} {b : Bank} {a : Byte} (hsel : (s.bank b).sel = some a)
    (hread : (s.portKind b a).readable = true) : s.latchByte b = s.portByte b a := by
  rw [State.latchByte, driven_of_readable hsel hread, Option.getD_some]

theorem outsideSame_ivRead (s : State) (b : Bank) : s.OutsideSame (s.ivRead b) :=
  outsideSame_of_bank rfl (State.ivRead_bank s b) rfl

theorem regsKept_ivRead (s : State) (b : Bank) : s.RegsKept (s.ivRead b) s.ovf :=
  ⟨fun r _ => State.readReg_ivRead s b r, rfl⟩

/-! ## Two instructions in a row (R72) -/

/-- A field of all eight bits at the manual's bit 7 is the byte itself (R89). -/
theorem ivOperand_whole (latch : Byte) : ivOperand latch 7 0 = latch := by
  have hshift : fieldShift 7 = 0 := rfl
  rw [ivOperand, hshift, rotr8_zero]
  refine BitVec.eq_of_getLsbD_eq fun k hk => ?_
  rw [getLsbD_maskField, fieldLen_zero, decide_eq_true hk, Bool.true_and]

theorem readReg_of_moveIvReg_whole {b : Bank} {r : Reg} {s t : State} (hr : r.plainDst = true)
    (h : exec (.moveIvReg ⟨b, 7⟩ 0 r) s = .next t) : t.readReg r = s.latchByte b := by
  have hnext := finishReg_plain .move (ivOperand (s.latchByte b) 7 0) (s.ivRead b) hr
  cases hnext.symm.trans h
  rw [State.readReg_seqNext, readReg_setReg_self _ _ (reg_plainDst_ne_r10 hr)]
  exact ivOperand_whole _

theorem exec_xmitAddr_output {b : Bank} {a : Byte} {s t : State} (h : exec (.xmitAddr b a) s = .next t) :
    t.bus.output = some (.select b a) := by
  rw [writeReg_seqNext_bus_of_addr (s := s.noRead) h]

theorem exec_xmitIv8_output {b : Bank} {v : Byte} {s t : State} (h : exec (.xmitIv8 b v) s = .next t) :
    t.bus.output = some (.write b v) := by
  cases h
  rw [State.seqNext_bus, State.ivWrite_bus]

theorem selected_of_readable {s : State} {b : Bank} {a : Byte} (h : (s.portKind b a).readable = true) :
    s.selected b a = some a :=
  if_neg fun habsent => by rw [habsent] at h; cases h

theorem writeTarget_of_writable {s : State} {b : Bank} {a : Byte} (hsel : (s.bank b).sel = some a)
    (hwrite : (s.portKind b a).writable = true) : s.writeTarget b = some a := by
  simp [State.writeTarget, hsel, hwrite]

/-! ## The statements -/

/-- Settles O30: the changes are made one after another, each to its own port, and to nothing but port data. -/
theorem environmentChangesPorts : Obligations.EnvironmentChangesPorts := by
  intro s
  exact ⟨takeInput_portByte s, State.readReg_congr s.takeInput_regs s.takeInput_ovf,
    State.progByte_congr s.takeInput_prog, fun b => ⟨s.takeInput_sel b, s.takeInput_kinds b⟩, s.takeInput_pc,
    s.takeInput_ar, s.takeInput_bus, s.takeInput_pulseDue, s.takeInput_floats, s.takeInput_inputs⟩

/-- Settles O39: every meaning commutes with replacing program storage. -/
theorem programIsNotData : Obligations.ProgramIsNotData :=
  fun i s p => withProg_exec p i s

/-- Settles O40: none of the three kinds of cycle writes program storage. -/
theorem stepKeepsProgram : Obligations.StepKeepsProgram :=
  fun _ _ h => State.progByte_congr (step_prog h)

/-- Settles O41, from the effects an instruction can have and the event each leaves in the bus record. -/
theorem portsChangeOnlyByBusEvents : Obligations.PortsChangeOnlyByBusEvents :=
  fun _ _ _ _ h => ⟨fun _ => exec_of_select h, exec_of_no_select h, fun _ _ => exec_portByte_of_write h,
    fun _ => exec_portByte_of_no_write h⟩

/-- Settles O44: the recorded phases are those of the table, and the levels are a function of the phases. -/
theorem busTable : Obligations.BusTable := by
  intro i s t hwf h
  have huse := exec_busUse hwf h
  rw [← huse, inputLevels_eq_levels, outputLevels_eq_levels]
  exact ⟨rfl, rfl, inputUse_eq_read_iff t.bus, outputUse_eq_select_iff t.bus, outputUse_eq_write_iff t.bus,
    levels_not_sc_and_wc _, exec_pulse h⟩

/-- Settles O49, by whether a port drives the bus. -/
theorem readTakesSelectedPort : Obligations.ReadTakesSelectedPort := by
  intro s b
  refine ⟨fun a hsel hread => ?_, fun hfree => ?_, outsideSame_ivRead s b, regsKept_ivRead s b⟩
  · rw [State.ivRead_floats, driven_of_readable hsel hread]
    exact ⟨latchByte_of_readable hsel hread, rfl⟩
  · rw [State.latchByte, State.ivRead_floats, driven_eq_none hfree]
    exact ⟨rfl, rfl⟩

/-- Settles O50: the select event sets the selection and leaves every port's byte, and the next read takes the selected
port. -/
theorem selectThenRead : Obligations.SelectThenRead := by
  intro b a r s t u hr hread hselect hmove
  have hout := exec_xmitAddr_output hselect
  obtain ⟨hsel, -⟩ := exec_of_select hselect hout
  rw [selected_of_readable hread] at hsel
  have hkind := State.portKind_congr (exec_kinds hselect b) a
  calc u.readReg r = t.latchByte b := readReg_of_moveIvReg_whole hr hmove
    _ = t.portByte b a := latchByte_of_readable hsel (by rw [hkind, hread])
    _ = s.portByte b a := exec_portByte_of_no_write hselect (by simp [hout])

/-- Settles O51: the write event sets the selected port and keeps it selected, and the next read takes its byte. -/
theorem writeThenRead : Obligations.WriteThenRead := by
  intro b a v r s t u hr hselected hkind hwrite hmove
  have hout := exec_xmitIv8_output hwrite
  obtain ⟨hsel, -⟩ := exec_of_no_select (b := b) hwrite (by simp [hout])
  have htarget : s.writeTarget b = some a := writeTarget_of_writable hselected (by rw [hkind]; rfl)
  have hread : (t.portKind b a).readable = true := by
    rw [State.portKind_congr (exec_kinds hwrite b), hkind]; rfl
  calc u.readReg r = t.latchByte b := readReg_of_moveIvReg_whole hr hmove
    _ = t.portByte b a := latchByte_of_readable (hsel.trans hselected) hread
    _ = v := exec_portByte_of_write hwrite hout htarget

end Sys2Proof.Proofs
end


section
/-! PROOFS. The encoding (spec/30_encoding.md): the decode tree as a relation between fields and instructions, from
which the round trips, the rows of the decode table and the reserved words follow; the operand of an IV-bus source;
which registers an instruction leaves alone. -/

namespace Sys2Proof.Proofs
open Sys2Proof.Machine

/-! ## The forms of MOVE, ADD, AND and XOR (R94) -/

/-- The S, R/L and D fields that are read as a form: the decode tree of R94 as a relation, one rule for each leaf. -/
inductive ReadsAs : BitVec 5 → BitVec 3 → BitVec 5 → AluForm → Prop where
  | regReg (src : Reg) (rot : BitVec 3) (dst : Reg) (h : dst.plainDst = true) :
      ReadsAs src.toField rot dst.toField (.regReg src rot dst)
  | regAddr (src : Reg) (rot : BitVec 3) (b : Bank) : ReadsAs src.toField rot b.addrReg.toField (.regAddr src rot b)
  | regIv (src : Reg) (len : BitVec 3) (dst : IvField) : ReadsAs src.toField len dst.toField (.regIv src len dst)
  | ivReg (src : IvField) (len : BitVec 3) (dst : Reg) (h : dst.plainDst = true) :
      ReadsAs src.toField len dst.toField (.ivReg src len dst)
  | ivIv (src : IvField) (len : BitVec 3) (dst : IvField) : ReadsAs src.toField len dst.toField (.ivIv src len dst)
  | ivAddr (src : IvField) (len : BitVec 3) (b : Bank) : ReadsAs src.toField len b.addrReg.toField (.ivAddr src len b)
  | reserved (src : BitVec 5) (rl : BitVec 3) : ReadsAs src rl Reg.r10.toField (.reserved src rl)

/-- A 5-bit field is that of a register or that of an IV-bus operand (R88). -/
theorem field_cases (d : BitVec 5) : (∃ r : Reg, d = r.toField) ∨ ∃ f : IvField, d = f.toField := by
  by_cases h : fieldIsIv d = true
  · exact Or.inr ⟨ivOfField d, (ivField_of_iv h).symm⟩
  · exact Or.inl ⟨regOfField d, (reg_of_field h).symm⟩

theorem decodeAlu_of_readsAs {s d : BitVec 5} {rl : BitVec 3} {f : AluForm} (h : ReadsAs s rl d f) :
    decodeAlu s rl d = f := by
  cases h with
  | regReg _ _ dst hplain | ivReg _ _ dst hplain =>
    have hr7 : dst ≠ .r7 := reg_plainDst_ne_addrReg hplain .left
    have hr17 : dst ≠ .r17 := reg_plainDst_ne_addrReg hplain .right
    simp [decodeAlu, reg_plainDst_ne_r10 hplain, hr7, hr17]
  | regAddr _ _ b | ivAddr _ _ b => cases b <;> simp [decodeAlu, Bank.addrReg]
  | regIv | ivIv | reserved => simp [decodeAlu]

theorem readsAs_total (s : BitVec 5) (rl : BitVec 3) (d : BitVec 5) : ∃ f, ReadsAs s rl d f := by
  rcases field_cases d with ⟨dst, rfl⟩ | ⟨dst, rfl⟩ <;> rcases field_cases s with ⟨src, rfl⟩ | ⟨src, rfl⟩
  · rcases reg_dst_cases dst with hplain | ⟨b, rfl⟩ | rfl
    · exact ⟨_, .regReg src rl dst hplain⟩
    · exact ⟨_, .regAddr src rl b⟩
    · exact ⟨_, .reserved _ rl⟩
  · rcases reg_dst_cases dst with hplain | ⟨b, rfl⟩ | rfl
    · exact ⟨_, .ivReg src rl dst hplain⟩
    · exact ⟨_, .ivAddr src rl b⟩
    · exact ⟨_, .reserved _ rl⟩
  · exact ⟨_, .regIv src rl dst⟩
  · exact ⟨_, .ivIv src rl dst⟩

theorem readsAs_of_wellFormed {f : AluForm} (h : f.wellFormed = true) : ∃ s rl d, ReadsAs s rl d f := by
  cases f
  case regReg => exact ⟨_, _, _, .regReg _ _ _ h⟩
  case regAddr => exact ⟨_, _, _, .regAddr _ _ _⟩
  case regIv => exact ⟨_, _, _, .regIv _ _ _⟩
  case ivReg => exact ⟨_, _, _, .ivReg _ _ _ h⟩
  case ivIv => exact ⟨_, _, _, .ivIv _ _ _⟩
  case ivAddr => exact ⟨_, _, _, .ivAddr _ _ _⟩
  case reserved => exact ⟨_, _, _, .reserved _ _⟩

theorem wellFormed_of_readsAs {s d : BitVec 5} {rl : BitVec 3} {f : AluForm} (h : ReadsAs s rl d f) :
    f.wellFormed = true := by
  cases h with
  | regReg _ _ _ hplain | ivReg _ _ _ hplain => exact hplain
  | regAddr | regIv | ivIv | ivAddr | reserved => rfl

theorem encodeAlu_of_readsAs {s d : BitVec 5} {rl : BitVec 3} {f : AluForm} (h : ReadsAs s rl d f) :
    encodeAlu f = s ++ (rl ++ d) := by
  cases h <;> rfl

/-! ## Instructions by class -/

/-- Case analysis of an instruction by its class: MOVE, ADD, AND and XOR as one case, through the form they share. -/
theorem instr_class_cases {P : Instr → Prop} (alu : ∀ op f, P (Instr.ofAlu op f))
    (xecReg : ∀ src lit, P (.xecReg src lit)) (xecIv : ∀ src len lit, P (.xecIv src len lit))
    (nztReg : ∀ src lit, P (.nztReg src lit)) (nztIv : ∀ src len lit, P (.nztIv src len lit))
    (xmitReg : ∀ dst lit, P (.xmitReg dst lit)) (xmitAddr : ∀ b lit, P (.xmitAddr b lit))
    (xmitIv8 : ∀ b lit, P (.xmitIv8 b lit)) (xmitIv : ∀ dst len lit, P (.xmitIv dst len lit))
    (xmitReserved : ∀ lit, P (.xmitReserved lit)) (jmp : ∀ addr, P (.jmp addr)) (i : Instr) : P i := by
  cases i
  case moveRegReg => exact alu .move (.regReg _ _ _)
  case moveRegAddr => exact alu .move (.regAddr _ _ _)
  case moveRegIv => exact alu .move (.regIv _ _ _)
  case moveIvReg => exact alu .move (.ivReg _ _ _)
  case moveIvIv => exact alu .move (.ivIv _ _ _)
  case moveIvAddr => exact alu .move (.ivAddr _ _ _)
  case moveReserved => exact alu .move (.reserved _ _)
  case addRegReg => exact alu .add (.regReg _ _ _)
  case addRegAddr => exact alu .add (.regAddr _ _ _)
  case addRegIv => exact alu .add (.regIv _ _ _)
  case addIvReg => exact alu .add (.ivReg _ _ _)
  case addIvIv => exact alu .add (.ivIv _ _ _)
  case addIvAddr => exact alu .add (.ivAddr _ _ _)
  case addReserved => exact alu .add (.reserved _ _)
  case andRegReg => exact alu .and (.regReg _ _ _)
  case andRegAddr => exact alu .and (.regAddr _ _ _)
  case andRegIv => exact alu .and (.regIv _ _ _)
  case andIvReg => exact alu .and (.ivReg _ _ _)
  case andIvIv => exact alu .and (.ivIv _ _ _)
  case andIvAddr => exact alu .and (.ivAddr _ _ _)
  case andReserved => exact alu .and (.reserved _ _)
  case xorRegReg => exact alu .xor (.regReg _ _ _)
  case xorRegAddr => exact alu .xor (.regAddr _ _ _)
  case xorRegIv => exact alu .xor (.regIv _ _ _)
  case xorIvReg => exact alu .xor (.ivReg _ _ _)
  case xorIvIv => exact alu .xor (.ivIv _ _ _)
  case xorIvAddr => exact alu .xor (.ivAddr _ _ _)
  case xorReserved => exact alu .xor (.reserved _ _)
  case xecReg => exact xecReg _ _
  case xecIv => exact xecIv _ _ _
  case nztReg => exact nztReg _ _
  case nztIv => exact nztIv _ _ _
  case xmitReg => exact xmitReg _ _
  case xmitAddr => exact xmitAddr _ _
  case xmitIv8 => exact xmitIv8 _ _
  case xmitIv => exact xmitIv _ _ _
  case xmitReserved => exact xmitReserved _
  case jmp => exact jmp _

/-! ## From an instruction to its word and back (R80 to R88, R94) -/

theorem opcode_cases (o : BitVec 3) :
    (∃ op : AluOp, o = op.toBits) ∨ o = 4#3 ∨ o = 5#3 ∨ o = 6#3 ∨ o = 7#3 := by
  have hall : ∀ o : BitVec 3, o = 0#3 ∨ o = 1#3 ∨ o = 2#3 ∨ o = 3#3 ∨ o = 4#3 ∨ o = 5#3 ∨ o = 6#3 ∨ o = 7#3 := by
    decide
  rcases hall o with h | h | h | h | h
  · exact Or.inl ⟨.move, h⟩
  · exact Or.inl ⟨.add, h⟩
  · exact Or.inl ⟨.and, h⟩
  · exact Or.inl ⟨.xor, h⟩
  · exact Or.inr h

/-- A destination of XMIT-Register, an address register, R12 or R13, or R10 (R170 to R172). -/
theorem xmit_dst_cases (r : Reg) :
    r.xmitDst = true ∨ (∃ b : Bank, r = b.addrReg) ∨ (∃ b : Bank, r = b.dataReg) ∨ r = .r10 := by
  cases r
  case r7 => exact Or.inr (Or.inl ⟨.left, rfl⟩)
  case r17 => exact Or.inr (Or.inl ⟨.right, rfl⟩)
  case r12 => exact Or.inr (Or.inr (Or.inl ⟨.left, rfl⟩))
  case r13 => exact Or.inr (Or.inr (Or.inl ⟨.right, rfl⟩))
  case r10 => exact Or.inr (Or.inr (Or.inr rfl))
  all_goals exact Or.inl rfl

theorem decodeFields_alu (op : AluOp) (hi5 : BitVec 5) (mid3 : BitVec 3) (lo5 : BitVec 5) (lo8 : BitVec 8)
    (lo13 : ProgAddr) :
    decodeFields op.toBits hi5 mid3 lo5 lo8 lo13 = Instr.ofAlu op (decodeAlu hi5 mid3 lo5) := by
  cases op <;> rfl

theorem decodeXmit_reg {dst : Reg} (h : dst.xmitDst = true) (len : BitVec 3) (lit5 : BitVec 5) (lit8 : BitVec 8) :
    decodeXmit dst.toField len lit5 lit8 = .xmitReg dst lit8 := by
  cases dst
  case r7 | r17 | r12 | r13 | r10 => cases h
  all_goals rfl

theorem decodeWord_encodeAluWord (op : AluOp) {f : AluForm} (h : f.wellFormed = true) :
    decodeWord (encodeAluWord op f) = Instr.ofAlu op f := by
  obtain ⟨s, rl, d, hreads⟩ := readsAs_of_wellFormed h
  rw [encodeAluWord, encodeAlu_of_readsAs hreads, decodeWord_fields, decodeFields_alu, decodeAlu_of_readsAs hreads]

theorem decodeWord_encodeWord {i : Instr} (h : i.wellFormed = true) : decodeWord (encodeWord i) = i := by
  cases i using instr_class_cases with
  | alu op f =>
    rw [ofAlu_wellFormed] at h
    rw [encodeWord_ofAlu, decodeWord_encodeAluWord op h]
  | xecReg | nztReg => rw [encodeWord, decodeWord_fields8]; simp [decodeFields]
  | xecIv | nztIv => rw [encodeWord, decodeWord_fields]; simp [decodeFields]
  | xmitReg dst lit => rw [encodeWord, decodeWord_fields8]; exact decodeXmit_reg h _ _ _
  | xmitAddr b lit | xmitIv8 b lit => rw [encodeWord, decodeWord_fields8]; cases b <;> rfl
  | xmitIv => rw [encodeWord, decodeWord_fields]; simp [decodeFields, decodeXmit]
  | xmitReserved => rw [encodeWord, decodeWord_fields8]; rfl
  | jmp => rw [encodeWord, decodeWord_fields13]; rfl

theorem decodeWord_eq_of_encodeWord {i : Instr} {w : Word} (hwf : i.wellFormed = true) (h : encodeWord i = w) :
    decodeWord w = i := by
  rw [← h, decodeWord_encodeWord hwf]

theorem decode_bytes_append (w : Word) (rest : List Byte) :
    decode (Word.bytes w ++ rest) = .ok (decodeWord w, rest) := by
  change Except.ok (decodeWord (w.extractLsb' 8 8 ++ w.extractLsb' 0 8), rest) = _
  rw [word_of_bytes]

/-! ## The reading of a word as a relation (R94) -/

/-- The operation code, S (or XMIT's D), R/L and D (or 5-bit J) fields of the words of an instruction: one rule for each
leaf of R94 outside the four classes of `ReadsAs`, and one for those classes. -/
inductive WordReadsAs : BitVec 3 → BitVec 5 → BitVec 3 → BitVec 5 → Instr → Prop where
  | alu (op : AluOp) {s : BitVec 5} {rl : BitVec 3} {d : BitVec 5} {f : AluForm} (h : ReadsAs s rl d f) :
      WordReadsAs op.toBits s rl d (.ofAlu op f)
  | xecReg (src : Reg) (rl : BitVec 3) (d : BitVec 5) : WordReadsAs 4 src.toField rl d (.xecReg src (rl ++ d))
  | xecIv (src : IvField) (len : BitVec 3) (lit : BitVec 5) : WordReadsAs 4 src.toField len lit (.xecIv src len lit)
  | nztReg (src : Reg) (rl : BitVec 3) (d : BitVec 5) : WordReadsAs 5 src.toField rl d (.nztReg src (rl ++ d))
  | nztIv (src : IvField) (len : BitVec 3) (lit : BitVec 5) : WordReadsAs 5 src.toField len lit (.nztIv src len lit)
  | xmitReg (dst : Reg) (rl : BitVec 3) (d : BitVec 5) (h : dst.xmitDst = true) :
      WordReadsAs 6 dst.toField rl d (.xmitReg dst (rl ++ d))
  | xmitAddr (b : Bank) (rl : BitVec 3) (d : BitVec 5) : WordReadsAs 6 b.addrReg.toField rl d (.xmitAddr b (rl ++ d))
  | xmitIv8 (b : Bank) (rl : BitVec 3) (d : BitVec 5) : WordReadsAs 6 b.dataReg.toField rl d (.xmitIv8 b (rl ++ d))
  | xmitIv (dst : IvField) (len : BitVec 3) (lit : BitVec 5) : WordReadsAs 6 dst.toField len lit (.xmitIv dst len lit)
  | xmitReserved (rl : BitVec 3) (d : BitVec 5) : WordReadsAs 6 Reg.r10.toField rl d (.xmitReserved (rl ++ d))
  | jmp (s : BitVec 5) (rl : BitVec 3) (d : BitVec 5) : WordReadsAs 7 s rl d (.jmp (s ++ (rl ++ d)))

theorem wellFormed_of_wordReadsAs {o : BitVec 3} {s d : BitVec 5} {rl : BitVec 3} {i : Instr}
    (h : WordReadsAs o s rl d i) : i.wellFormed = true := by
  cases h with
  | alu op h => rw [ofAlu_wellFormed, wellFormed_of_readsAs h]
  | xmitReg _ _ _ h => exact h
  | xecReg | xecIv | nztReg | nztIv | xmitAddr | xmitIv8 | xmitIv | xmitReserved | jmp => rfl

theorem encodeWord_of_wordReadsAs {o : BitVec 3} {s d : BitVec 5} {rl : BitVec 3} {i : Instr}
    (h : WordReadsAs o s rl d i) : encodeWord i = o ++ (s ++ (rl ++ d : BitVec 8) : BitVec 13) := by
  cases h with
  | alu op h => rw [encodeWord_ofAlu, encodeAluWord, encodeAlu_of_readsAs h]
  | xecReg | xecIv | nztReg | nztIv | xmitReg | xmitAddr | xmitIv8 | xmitIv | xmitReserved | jmp => rfl

/-- Each leaf of the tree of R94 has its constructor. -/
theorem wordReadsAs_total (o : BitVec 3) (s : BitVec 5) (rl : BitVec 3) (d : BitVec 5) :
    ∃ i, WordReadsAs o s rl d i := by
  rcases opcode_cases o with ⟨op, rfl⟩ | rfl | rfl | rfl | rfl
  · obtain ⟨f, hf⟩ := readsAs_total s rl d
    exact ⟨_, .alu op hf⟩
  · rcases field_cases s with ⟨src, rfl⟩ | ⟨src, rfl⟩
    · exact ⟨_, .xecReg src rl d⟩
    · exact ⟨_, .xecIv src rl d⟩
  · rcases field_cases s with ⟨src, rfl⟩ | ⟨src, rfl⟩
    · exact ⟨_, .nztReg src rl d⟩
    · exact ⟨_, .nztIv src rl d⟩
  · rcases field_cases s with ⟨dst, rfl⟩ | ⟨dst, rfl⟩
    · rcases xmit_dst_cases dst with hdst | ⟨b, rfl⟩ | ⟨b, rfl⟩ | rfl
      · exact ⟨_, .xmitReg dst rl d hdst⟩
      · exact ⟨_, .xmitAddr b rl d⟩
      · exact ⟨_, .xmitIv8 b rl d⟩
      · exact ⟨_, .xmitReserved rl d⟩
    · exact ⟨_, .xmitIv dst rl d⟩
  · exact ⟨_, .jmp s rl d⟩

theorem wordReadsAs_decodeWord (w : Word) :
    WordReadsAs (w.extractLsb' 13 3) (w.extractLsb' 8 5) (w.extractLsb' 5 3) (w.extractLsb' 0 5) (decodeWord w) := by
  obtain ⟨i, hi⟩ :=
    wordReadsAs_total (w.extractLsb' 13 3) (w.extractLsb' 8 5) (w.extractLsb' 5 3) (w.extractLsb' 0 5)
  have hword : encodeWord i = w := (encodeWord_of_wordReadsAs hi).trans (word_fields w).symm
  have hdecode : decodeWord w = i := by rw [← hword, decodeWord_encodeWord (wellFormed_of_wordReadsAs hi)]
  rwa [hdecode]

/-! ## Masks, field by field -/

theorem word_and_eq_iff (w m v : Word) : w &&& m = v ↔
    w.extractLsb' 13 3 &&& m.extractLsb' 13 3 = v.extractLsb' 13 3 ∧
    w.extractLsb' 8 5 &&& m.extractLsb' 8 5 = v.extractLsb' 8 5 ∧
    w.extractLsb' 5 3 &&& m.extractLsb' 5 3 = v.extractLsb' 5 3 ∧
    w.extractLsb' 0 5 &&& m.extractLsb' 0 5 = v.extractLsb' 0 5 := by
  simp only [← BitVec.extractLsb'_and]
  constructor
  · rintro rfl
    exact ⟨rfl, rfl, rfl, rfl⟩
  · rintro ⟨ho, hs, hrl, hd⟩
    rw [word_fields (w &&& m), ho, hs, hrl, hd, ← word_fields v]

@[simp] theorem and_allOnes3 (x : BitVec 3) : x &&& 7#3 = x := BitVec.and_allOnes

@[simp] theorem and_allOnes5 (x : BitVec 5) : x &&& 31#5 = x := BitVec.and_allOnes

@[simp] theorem regField_and_ivBit (r : Reg) : r.toField &&& 16#5 = 0#5 := by cases r <;> rfl

@[simp] theorem ivField_and_ivBit (f : IvField) : f.toField &&& 16#5 = 16#5 := by
  obtain ⟨b, p⟩ := f
  revert p
  cases b <;> decide

/-- The numbers of R7 and R17 agree in all bits but the bank's. -/
@[simp] theorem addrReg_field_and (b : Bank) : b.addrReg.toField &&& 23#5 = 7#5 := by cases b <;> rfl

/-- The numbers of R12 and R13 agree in all bits but the bank's. -/
@[simp] theorem dataReg_field_and (b : Bank) : b.dataReg.toField &&& 30#5 = 10#5 := by cases b <;> rfl

theorem r10_toField : Reg.r10.toField = 8#5 := rfl

theorem regField_inj {r q : Reg} : r.toField = q.toField ↔ r = q :=
  ⟨fun h => by rw [← regOfField_toField r, h, regOfField_toField], congrArg _⟩

theorem ivField_ne_regField (f : IvField) (r : Reg) : f.toField ≠ r.toField := by
  intro h
  have hiv := fieldIsIv_ivField f
  rw [h, fieldIsIv_regField] at hiv
  cases hiv

/-- The destinations of the Register forms are none of those that the table's exceptions take out. -/
theorem plainDst_field {r : Reg} (h : r.plainDst = true) : r.toField &&& 23#5 ≠ 7#5 ∧ r.toField ≠ 8#5 := by
  revert h
  cases r <;> decide

theorem xmitDst_field {r : Reg} (h : r.xmitDst = true) : r.toField &&& 30#5 ≠ 10#5 := by
  revert h
  cases r <;> decide

/-! ## Every word is one of its row (R95) -/

theorem tableRow_holds_iff (r : TableRow) (w : Word) :
    r.holds w = true ↔ w &&& r.mask = r.value ∧ ∀ e ∈ r.excepts, w &&& e.1 ≠ e.2 := by
  simp [TableRow.holds]

theorem tableRow_ofAlu (op : AluOp) (f : AluForm) : tableRow (.ofAlu op f) = aluRow (op.toBits ++ 0#13) f := by
  cases op <;> cases f <;> rfl

/-- No row's mask looks at the R/L field, so the other three fields of the word are enough. -/
theorem holds_of_readsAs {w : Word} {op : AluOp} {s d : BitVec 5} {rl : BitVec 3} {f : AluForm}
    (ho : w.extractLsb' 13 3 = op.toBits) (hs : w.extractLsb' 8 5 = s) (hd : w.extractLsb' 0 5 = d)
    (h : ReadsAs s rl d f) : (tableRow (.ofAlu op f)).holds w = true := by
  rw [tableRow_ofAlu, tableRow_holds_iff]
  cases h with
  | regReg _ _ _ hplain | ivReg _ _ _ hplain =>
    obtain ⟨haddr, hr10⟩ := plainDst_field hplain
    cases op <;> simp [aluRow, AluOp.toBits, word_and_eq_iff, ho, hs, hd, haddr, hr10]
  | regAddr | ivAddr | regIv | ivIv | reserved =>
    cases op <;> simp [aluRow, AluOp.toBits, word_and_eq_iff, ho, hs, hd, r10_toField]

theorem holds_of_wordReadsAs {w : Word} {o : BitVec 3} {s d : BitVec 5} {rl : BitVec 3} {i : Instr}
    (ho : w.extractLsb' 13 3 = o) (hs : w.extractLsb' 8 5 = s) (hd : w.extractLsb' 0 5 = d)
    (h : WordReadsAs o s rl d i) : (tableRow i).holds w = true := by
  cases h with
  | alu op h => exact holds_of_readsAs ho hs hd h
  | xmitReg _ _ _ hdst =>
    obtain ⟨haddr, hr10⟩ := plainDst_field (reg_plainDst_of_xmitDst hdst)
    simp [tableRow_holds_iff, tableRow, word_and_eq_iff, ho, hs, haddr, hr10, xmitDst_field hdst]
  | xecReg | xecIv | nztReg | nztIv | xmitAddr | xmitIv8 | xmitIv | xmitReserved | jmp =>
    simp [tableRow_holds_iff, tableRow, word_and_eq_iff, ho, hs, r10_toField]

/-! ## The rows do not overlap (R95) -/

/-- The masks show that no word of row `q` is one of row `r`: a bit that both fix has different values, or every word of
`q` matches an exception of `r`. -/
def excludes (r q : TableRow) : Bool :=
  r.value &&& q.mask != q.value &&& r.mask ||
    r.excepts.any fun e => e.1 &&& q.mask == e.1 && q.value &&& e.1 == e.2

theorem not_holds_of_excludes {r q : TableRow} {w : Word} (h : excludes r q = true) (hq : q.holds w = true) :
    ¬ r.holds w = true := by
  simp only [excludes, Bool.or_eq_true, bne_iff_ne, List.any_eq_true, Bool.and_eq_true, beq_iff_eq] at h
  rw [tableRow_holds_iff] at hq ⊢
  obtain ⟨hqvalue, -⟩ := hq
  rintro ⟨hrvalue, hexcepts⟩
  rcases h with hbit | ⟨e, he, hmask, hvalue⟩
  · apply hbit
    rw [← hrvalue, ← hqvalue, BitVec.and_assoc, BitVec.and_assoc, BitVec.and_comm r.mask]
  · apply hexcepts e he
    calc w &&& e.1 = w &&& q.mask &&& e.1 := by rw [BitVec.and_assoc, BitVec.and_comm q.mask, hmask]
      _ = e.2 := by rw [hqvalue, hvalue]

/-- A form of each of the seven kinds. -/
def formOfEachKind : List AluForm :=
  [.regReg .r0 0 .r0, .regAddr .r0 0 .left, .regIv .r0 0 ⟨.left, 0⟩, .ivReg ⟨.left, 0⟩ 0 .r0,
    .ivIv ⟨.left, 0⟩ 0 ⟨.left, 0⟩, .ivAddr ⟨.left, 0⟩ 0 .left, .reserved 0 0]

/-- An instruction of each of the 38 rows of R95. -/
def instrOfEachRow : List Instr :=
  ([AluOp.move, .add, .and, .xor].flatMap fun op => formOfEachKind.map (Instr.ofAlu op)) ++
    [.xecReg .r0 0, .xecIv ⟨.left, 0⟩ 0 0, .nztReg .r0 0, .nztIv ⟨.left, 0⟩ 0 0, .xmitReg .r0 0, .xmitAddr .left 0,
      .xmitIv8 .left 0, .xmitIv ⟨.left, 0⟩ 0 0, .xmitReserved 0, .jmp 0]

theorem ofAlu_mem_instrOfEachRow (op : AluOp) {f : AluForm} (h : f ∈ formOfEachKind) :
    Instr.ofAlu op f ∈ instrOfEachRow := by
  refine List.mem_append_left _ (List.mem_flatMap.mpr ⟨op, ?_, List.mem_map_of_mem h⟩)
  cases op <;> decide

/-- A row of the four classes depends on the kind of the form alone. -/
theorem aluRow_of_kind (f : AluForm) : ∃ g ∈ formOfEachKind, ∀ b, aluRow b f = aluRow b g := by
  cases f
  case regReg => exact ⟨.regReg .r0 0 .r0, by decide, fun _ => rfl⟩
  case regAddr => exact ⟨.regAddr .r0 0 .left, by decide, fun _ => rfl⟩
  case regIv => exact ⟨.regIv .r0 0 ⟨.left, 0⟩, by decide, fun _ => rfl⟩
  case ivReg => exact ⟨.ivReg ⟨.left, 0⟩ 0 .r0, by decide, fun _ => rfl⟩
  case ivIv => exact ⟨.ivIv ⟨.left, 0⟩ 0 ⟨.left, 0⟩, by decide, fun _ => rfl⟩
  case ivAddr => exact ⟨.ivAddr ⟨.left, 0⟩ 0 .left, by decide, fun _ => rfl⟩
  case reserved => exact ⟨.reserved 0 0, by decide, fun _ => rfl⟩

theorem tableRow_of_kind (i : Instr) : ∃ j ∈ instrOfEachRow, tableRow i = tableRow j := by
  cases i using instr_class_cases with
  | alu op f =>
    obtain ⟨g, hg, hrow⟩ := aluRow_of_kind f
    exact ⟨.ofAlu op g, ofAlu_mem_instrOfEachRow op hg, by rw [tableRow_ofAlu, tableRow_ofAlu, hrow]⟩
  | xecReg => exact ⟨.xecReg .r0 0, by decide, rfl⟩
  | xecIv => exact ⟨.xecIv ⟨.left, 0⟩ 0 0, by decide, rfl⟩
  | nztReg => exact ⟨.nztReg .r0 0, by decide, rfl⟩
  | nztIv => exact ⟨.nztIv ⟨.left, 0⟩ 0 0, by decide, rfl⟩
  | xmitReg => exact ⟨.xmitReg .r0 0, by decide, rfl⟩
  | xmitAddr => exact ⟨.xmitAddr .left 0, by decide, rfl⟩
  | xmitIv8 => exact ⟨.xmitIv8 .left 0, by decide, rfl⟩
  | xmitIv => exact ⟨.xmitIv ⟨.left, 0⟩ 0 0, by decide, rfl⟩
  | xmitReserved => exact ⟨.xmitReserved 0, by decide, rfl⟩
  | jmp => exact ⟨.jmp 0, by decide, rfl⟩

theorem rows_exclude_each_other : ∀ i ∈ instrOfEachRow, ∀ j ∈ instrOfEachRow,
    tableRow i = tableRow j ∨ excludes (tableRow i) (tableRow j) = true ∨
    excludes (tableRow j) (tableRow i) = true := by decide

/-! ## Reserved words (R97) -/

theorem reserved_ofAlu_iff (op : AluOp) (f : AluForm) :
    (Instr.ofAlu op f).reserved = true ↔ ∃ src rl, f = .reserved src rl := by
  cases op <;> cases f <;> simp [Instr.ofAlu, Instr.reserved]

theorem reserved_iff_of_readsAs {s d : BitVec 5} {rl : BitVec 3} {f : AluForm} (h : ReadsAs s rl d f) :
    (∃ src rl', f = .reserved src rl') ↔ d = Reg.r10.toField := by
  cases h with
  | regReg _ _ dst hplain | ivReg _ _ dst hplain => simp [regField_inj, reg_plainDst_ne_r10 hplain]
  | regAddr _ _ b | ivAddr _ _ b => simp [regField_inj, bank_addrReg_ne_r10 b]
  | regIv _ _ dst | ivIv _ _ dst => simp [ivField_ne_regField]
  | reserved => simp

theorem reserved_iff_of_wordReadsAs {o : BitVec 3} {s d : BitVec 5} {rl : BitVec 3} {i : Instr}
    (h : WordReadsAs o s rl d i) :
    i.reserved = true ↔ (o &&& 4#3 = 0#3 ∧ d = Reg.r10.toField) ∨ (o = 6#3 ∧ s = Reg.r10.toField) := by
  cases h with
  | alu op h =>
    rw [reserved_ofAlu_iff, reserved_iff_of_readsAs h]
    cases op <;> simp [AluOp.toBits]
  | xmitReg dst _ _ hdst => simp [Instr.reserved, regField_inj, reg_plainDst_ne_r10 (reg_plainDst_of_xmitDst hdst)]
  | xmitAddr b => simp [Instr.reserved, regField_inj, bank_addrReg_ne_r10 b]
  | xmitIv8 b => cases b <;> simp [Instr.reserved, regField_inj, Bank.dataReg]
  | xmitIv => simp [Instr.reserved, ivField_ne_regField]
  | xmitReserved | xecReg | xecIv | nztReg | nztIv | jmp => simp [Instr.reserved]

theorem reservedWord_iff_fields (w : Word) : (w &&& 0x801F = 0x0008 ∨ w &&& 0xFF00 = 0xC800) ↔
    (w.extractLsb' 13 3 &&& 4#3 = 0#3 ∧ w.extractLsb' 0 5 = Reg.r10.toField) ∨
    (w.extractLsb' 13 3 = 6#3 ∧ w.extractLsb' 8 5 = Reg.r10.toField) := by
  simp [word_and_eq_iff, r10_toField]

/-! ## Registers an instruction leaves alone (R90) -/

theorem readReg_aluFlags (s : State) (op : AluOp) (a : Byte) {r : Reg} (h : r ≠ .r10) :
    (s.aluFlags op a).readReg r = s.readReg r :=
  State.readReg_setOvf s _ h

theorem writeReg_seqNext_readReg {dst r : Reg} {v : Byte} {s t : State}
    (h : onNext (writeReg dst v s) State.seqNext = .next t) (hr : r ≠ dst) : t.readReg r = s.readReg r := by
  rcases reg_dst_cases dst with hplain | ⟨b, rfl⟩ | rfl
  · rw [writeReg_plain _ _ hplain] at h
    cases h
    rw [State.readReg_seqNext, readReg_setReg_of_ne s v (reg_plainDst_ne_r10 hplain) hr]
  · rw [writeReg_addr] at h
    cases h
    rw [State.readReg_seqNext, State.readReg_ivSelect, readReg_setReg_of_ne s v (bank_addrReg_ne_r10 b) hr]
  · cases h

theorem finishReg_readReg {op : AluOp} {a : Byte} {dst r : Reg} {s t : State} (h : finishReg op a dst s = .next t)
    (hr : r ≠ dst) (hovf : r ≠ .r10) : t.readReg r = s.readReg r :=
  (writeReg_seqNext_readReg h hr).trans (readReg_aluFlags s op a hovf)

theorem finishIv_readReg {op : AluOp} {a latch : Byte} {len : BitVec 3} {dst : IvField} {r : Reg} {s t : State}
    (h : finishIv op a latch len dst s = .next t) (hovf : r ≠ .r10) : t.readReg r = s.readReg r := by
  cases h
  rw [State.readReg_seqNext, State.readReg_ivWrite, readReg_aluFlags s op a hovf]

theorem nonzeroTo_readReg (s : State) (v : Byte) (a : ProgAddr) (r : Reg) :
    (s.nonzeroTo v a).readReg r = s.readReg r := by
  by_cases hv : v = 0
  · rw [State.nonzeroTo_zero s a hv, State.readReg_seqNext]
  · rw [State.nonzeroTo_nonzero s a hv]; rfl

/-! ## The operand of an IV-bus source (R89) -/

theorem getLsbD_ivOperand (latch : Byte) (pos l : BitVec 3) {k : Nat} (hk : k < 8) :
    (ivOperand latch pos l).getLsbD k = (decide (k < fieldLen l) && latch.getLsbD ((k + fieldShift pos) % 8)) := by
  have hshift : fieldShift pos ≤ 7 := Nat.sub_le 7 _
  rw [ivOperand, getLsbD_maskField, getLsbD_rotr8 latch hshift hk]

/-! ## The statements -/

/-- Settles O1: the bytes are those of the word, and each class's fields are read back from it. -/
theorem decodeEncode : Obligations.DecodeEncode := by
  intro i rest hwf
  rw [encode, decode_bytes_append, decodeWord_encodeWord hwf]

/-- Settles O2: the fields of a word are the fields of the words of the instruction it decodes to. -/
theorem encodeDecode : Obligations.EncodeDecode := by
  intro w
  have hreads := wordReadsAs_decodeWord w
  exact ⟨wellFormed_of_wordReadsAs hreads, (encodeWord_of_wordReadsAs hreads).trans (word_fields w).symm⟩

/-- Settles O3, by the leaf of the decode tree that reads the word. -/
theorem decodeFollowsTable : Obligations.DecodeFollowsTable :=
  fun w => holds_of_wordReadsAs rfl rfl rfl (wordReadsAs_decodeWord w)

/-- Settles O4: of two different rows one excludes the other, as their masks and exceptions show. -/
theorem tableRowsDisjoint : Obligations.TableRowsDisjoint := by
  intro i j w hi hj
  obtain ⟨i', hi', hrow⟩ := tableRow_of_kind i
  obtain ⟨j', hj', hrow'⟩ := tableRow_of_kind j
  rw [hrow] at hi ⊢
  rw [hrow'] at hj ⊢
  rcases rows_exclude_each_other i' hi' j' hj' with heq | hex | hex
  · exact heq
  · exact absurd hi (not_holds_of_excludes hex hj)
  · exact absurd hj (not_holds_of_excludes hex hi)

/-- Settles O5: both sides say that the destination field, D or XMIT's, is the number of R10. -/
theorem reservedWords : Obligations.ReservedWords :=
  fun w => (reserved_iff_of_wordReadsAs (wordReadsAs_decodeWord w)).trans (reservedWord_iff_fields w).symm

/-- Settles O45, by the shape of the instruction: what it writes is its destination, a port, or an address. -/
theorem onlyDestinationChanges : Obligations.OnlyDestinationChanges := by
  intro i s t r h hdest hr
  have hne : ∀ {d : Reg}, destReg i = some d → r ≠ d := fun hd heq => hdest (heq ▸ hd)
  cases i
  case moveRegReg | addRegReg | andRegReg | xorRegReg | moveRegAddr | addRegAddr | andRegAddr | xorRegAddr =>
    exact finishReg_readReg (s := s.noRead) h (hne rfl) hr
  case moveIvReg | addIvReg | andIvReg | xorIvReg | moveIvAddr | addIvAddr | andIvAddr | xorIvAddr =>
    exact finishReg_readReg (s := s.ivRead _) h (hne rfl) hr
  case moveRegIv | addRegIv | andRegIv | xorRegIv | moveIvIv | addIvIv | andIvIv | xorIvIv =>
    exact finishIv_readReg (s := s.ivRead _) h hr
  case moveReserved | addReserved | andReserved | xorReserved | xmitReserved => cases h
  case xmitReg | xmitAddr => exact writeReg_seqNext_readReg (s := s.noRead) h (hne rfl)
  case xmitIv8 | xmitIv => cases h; simp
  case nztReg | nztIv => cases h; exact nonzeroTo_readReg _ _ _ r
  case xecReg | xecIv | jmp => cases h; rfl

/-- Settles O6: each word is the encoding of its instruction. -/
theorem exampleWords : Obligations.ExampleWords := by
  refine ⟨?_, ?_, ?_, ?_, ?_, ?_, ?_, ?_, ?_, ?_, ?_, ?_, ?_, ?_, ?_, ?_⟩ <;>
    exact decodeWord_eq_of_encodeWord rfl rfl

/-- Settles O10: the rotation brings the field's bits to the low end, the mask clears those above it. -/
theorem ivOperandBits : Obligations.IvOperandBits :=
  fun latch pos l _ hk => getLsbD_ivOperand latch pos l hk

/-- Settles O28: each of the five reserved arms of `exec` is the refusal. -/
theorem reservedRefused : Obligations.ReservedRefused :=
  fun _ _ _ _ => ⟨rfl, rfl, rfl, rfl, rfl⟩

end Sys2Proof.Proofs
end

section
/-! PROOFS. MOVE, ADD, AND, XOR (spec/40_move.md to spec/43_xor.md): an effect after an input phase completes as
Safety.lean says, each of the six forms is one such effect, and the results and OVF of the four classes. -/

namespace Sys2Proof.Proofs
open Sys2Proof.Machine

/-! ## The input phase by the bank it reads (R56, R60) -/

/-- The state after the input phase: a read of the bank, if there is one. -/
def afterInput (s : State) : Option Bank → State
  | none => s.noRead
  | some b => s.ivRead b

theorem inputPhase_afterInput (s : State) (inB : Option Bank) : InputPhase s (afterInput s inB) := by
  cases inB with
  | none => exact inputPhase_noRead s
  | some b => exact inputPhase_ivRead s b

@[simp] theorem afterInput_regs (s : State) (inB : Option Bank) : (afterInput s inB).regs = s.regs := by
  cases inB <;> rfl

@[simp] theorem afterInput_ovf (s : State) (inB : Option Bank) : (afterInput s inB).ovf = s.ovf := by
  cases inB <;> rfl

@[simp] theorem afterInput_pc (s : State) (inB : Option Bank) : (afterInput s inB).pc = s.pc := by
  cases inB <;> rfl

@[simp] theorem afterInput_inputs (s : State) (inB : Option Bank) : (afterInput s inB).inputs = s.inputs := by
  cases inB <;> rfl

theorem outsideSame_afterInput (s : State) (inB : Option Bank) : s.OutsideSame (afterInput s inB) :=
  have hin := inputPhase_afterInput s inB
  outsideSame_of_bank (inputPhase_prog hin) (inputPhase_bank hin) (afterInput_inputs s inB)

theorem busWas_afterInput (s : State) (inB : Option Bank) : s.BusWas (afterInput s inB) inB none := by
  cases inB with
  | none => exact ⟨rfl, rfl, rfl, fun _ => rfl⟩
  | some b =>
    refine ⟨rfl, rfl, rfl, fun hdriven => ?_⟩
    obtain ⟨v, hv⟩ := Option.ne_none_iff_exists'.mp (hdriven b rfl)
    rw [afterInput, State.ivRead_floats, hv]

/-- What follows the input phase adds an output event to the bus record and uses up no free byte. -/
theorem busWas_output {s u t : State} {inB : Option Bank} {o : Option BusOutput} (h : s.BusWas u inB none)
    (hbus : t.bus = { u.bus with output := o }) (hfloats : t.floats = u.floats) : s.BusWas t inB o where
  input := by rw [hbus]; exact h.input
  output := by rw [hbus]
  mclk := by rw [hbus]; exact h.mclk
  floats hdriven := hfloats.trans (h.floats hdriven)

/-! ## Frames outside the chip, composed -/

theorem outsideSame_trans {s u t : State} (hsu : s.OutsideSame u) (hut : u.OutsideSame t) : s.OutsideSame t where
  prog n := (hut.prog n).trans (hsu.prog n)
  port b a := (hut.port b a).trans (hsu.port b a)
  sel b := (hut.sel b).trans (hsu.sel b)
  kinds b := (hut.kinds b).trans (hsu.kinds b)
  inputs := hut.inputs.trans hsu.inputs

theorem outsideSame_setOvf (s : State) (o : Bool) : s.OutsideSame (s.setOvf o) :=
  outsideSame_of_bank rfl (State.setOvf_bank s o) rfl

theorem outsideSame_seqNext (s : State) : s.OutsideSame s.seqNext :=
  outsideSame_of_bank rfl (State.seqNext_bank s) rfl

theorem writeTarget_of_outsideSame {s u : State} (h : s.OutsideSame u) (b : Bank) :
    u.writeTarget b = s.writeTarget b := by
  unfold State.writeTarget State.portKind
  rw [h.sel, h.kinds]

theorem selected_of_outsideSame {s u : State} (h : s.OutsideSame u) (b : Bank) (a : Byte) :
    u.selected b a = s.selected b a := by
  rw [State.selected, State.selected, State.portKind_congr (h.kinds b)]

theorem portSelected_between {s u t t' : State} {b : Bank} {a : Byte} (hbefore : s.OutsideSame u)
    (h : u.PortSelected t b a) (hafter : t.OutsideSame t') : s.PortSelected t' b a where
  sel := (hafter.sel b).trans (h.sel.trans (selected_of_outsideSame hbefore b a))
  other c hc := (hafter.sel c).trans ((h.other c hc).trans (hbefore.sel c))
  prog n := (hafter.prog n).trans ((h.prog n).trans (hbefore.prog n))
  port c x := (hafter.port c x).trans ((h.port c x).trans (hbefore.port c x))
  kinds c := (hafter.kinds c).trans ((h.kinds c).trans (hbefore.kinds c))
  inputs := hafter.inputs.trans (h.inputs.trans hbefore.inputs)

theorem portWritten_ivWrite (s : State) (b : Bank) (v : Byte) : s.PortWritten (s.ivWrite b v) b v where
  stored a ha := by rw [State.ivWrite_portByte, if_pos ⟨rfl, ha⟩]
  others c x hmiss := by rw [State.ivWrite_portByte, if_neg hmiss]
  prog := State.progByte_congr (State.ivWrite_prog s b v)
  sel c := State.ivWrite_sel s b c v
  kinds c := State.ivWrite_kinds s b c v
  inputs := State.ivWrite_inputs s b v

theorem portWritten_between {s u t t' : State} {b : Bank} {v : Byte} (hbefore : s.OutsideSame u)
    (h : u.PortWritten t b v) (hafter : t.OutsideSame t') : s.PortWritten t' b v where
  stored a ha := (hafter.port b a).trans (h.stored a ((writeTarget_of_outsideSame hbefore b).trans ha))
  others c x hmiss := by
    rw [← writeTarget_of_outsideSame hbefore b] at hmiss
    exact (hafter.port c x).trans ((h.others c x hmiss).trans (hbefore.port c x))
  prog n := (hafter.prog n).trans ((h.prog n).trans (hbefore.prog n))
  sel c := (hafter.sel c).trans ((h.sel c).trans (hbefore.sel c))
  kinds c := (hafter.kinds c).trans ((h.kinds c).trans (hbefore.kinds c))
  inputs := hafter.inputs.trans (h.inputs.trans hbefore.inputs)

/-! ## How an effect after the input phase completes

The three effects in sequence, in the spelling of `Effect`. The destination is written in the state after the input phase with OVF set. -/

theorem outsideSame_afterInput_setOvf (s : State) (inB : Option Bank) (o : Bool) :
    s.OutsideSame ((afterInput s inB).setOvf o) :=
  outsideSame_trans (outsideSame_afterInput s inB) (outsideSame_setOvf _ o)

theorem readReg_afterInput_setOvf (s : State) (inB : Option Bank) (o : Bool) {r : Reg} (hr : r ≠ .r10) :
    ((afterInput s inB).setOvf o).readReg r = s.readReg r :=
  (State.readReg_setOvf _ o hr).trans (inputPhase_readReg (inputPhase_afterInput s inB) r)

theorem completesToReg_of_exec {i : Instr} {s : State} {dst : Reg} {v : Byte} {o : Bool} {inB : Option Bank}
    (hdst : dst ≠ .r10) (h : exec i s = .next (((afterInput s inB).setOvf o).setReg dst v).seqNext) :
    CompletesToReg i s dst v o inB := by
  refine ⟨_, h, ⟨?_, fun r hr hovf => ?_, rfl, by simp, by simp⟩, ?_,
    busWas_output (busWas_afterInput s inB) ?_ rfl⟩
  · rw [State.readReg_seqNext, readReg_setReg_self _ v hdst]
  · rw [State.readReg_seqNext, readReg_setReg_of_ne _ v hdst hr, readReg_afterInput_setOvf s inB o hovf]
  · exact outsideSame_trans (outsideSame_afterInput_setOvf s inB o)
      (outsideSame_trans (outsideSame_setReg _ dst v) (outsideSame_seqNext _))
  · cases inB <;> rfl

theorem completesToAddr_of_exec {i : Instr} {s : State} {b : Bank} {v : Byte} {o : Bool} {inB : Option Bank}
    (h : exec i s = .next ((((afterInput s inB).setOvf o).setReg b.addrReg v).ivSelect b v).seqNext) :
    CompletesToAddr i s b v o inB := by
  have hdst := bank_addrReg_ne_r10 b
  refine ⟨_, h, ⟨?_, fun r hr hovf => ?_, by simp, by simp, by simp⟩, ?_,
    busWas_output (busWas_afterInput s inB) (by simp) (by simp)⟩
  · rw [State.readReg_seqNext, State.readReg_ivSelect, readReg_setReg_self _ v hdst]
  · rw [State.readReg_seqNext, State.readReg_ivSelect, readReg_setReg_of_ne _ v hdst hr,
      readReg_afterInput_setOvf s inB o hovf]
  · exact portSelected_between (outsideSame_afterInput_setOvf s inB o) (portSelected_setReg_ivSelect _ _ v b v)
      (outsideSame_seqNext _)

theorem completesToPort_of_exec {i : Instr} {s : State} {b : Bank} {v : Byte} {o : Bool} {inB : Option Bank}
    (h : exec i s = .next (((afterInput s inB).setOvf o).ivWrite b v).seqNext) : CompletesToPort i s b v o inB := by
  refine ⟨_, h, ⟨fun r hovf => ?_, by simp⟩, by simp, by simp, ?_,
    busWas_output (busWas_afterInput s inB) (by simp) (by simp)⟩
  · rw [State.readReg_seqNext, State.readReg_ivWrite, readReg_afterInput_setOvf s inB o hovf]
  · exact portWritten_between (outsideSame_afterInput_setOvf s inB o) (portWritten_ivWrite _ b v)
      (outsideSame_seqNext _)

/-! ## How the shared ends of the four classes complete (R90) -/

theorem completesToReg_of_finishReg {i : Instr} {op : AluOp} {a : Byte} {dst : Reg} {s : State} {inB : Option Bank}
    (hplain : dst.plainDst = true) (h : exec i s = finishReg op a dst (afterInput s inB)) :
    CompletesToReg i s dst (aluResult op a (s.readReg .r0)) (aluOvf op a (s.readReg .r0) s.ovf) inB := by
  rw [finishReg_plain op a _ hplain, State.aluFlags, afterInput_regs, afterInput_ovf] at h
  exact completesToReg_of_exec (reg_plainDst_ne_r10 hplain) h

theorem completesToAddr_of_finishReg {i : Instr} {op : AluOp} {a : Byte} {b : Bank} {s : State} {inB : Option Bank}
    (h : exec i s = finishReg op a b.addrReg (afterInput s inB)) :
    CompletesToAddr i s b (aluResult op a (s.readReg .r0)) (aluOvf op a (s.readReg .r0) s.ovf) inB := by
  rw [finishReg_addr, State.aluFlags, afterInput_regs, afterInput_ovf] at h
  exact completesToAddr_of_exec h

theorem completesToPort_of_finishIv {i : Instr} {op : AluOp} {a latch : Byte} {len : BitVec 3} {dst : IvField}
    {s : State} {inB : Option Bank} (h : exec i s = finishIv op a latch len dst (afterInput s inB)) :
    CompletesToPort i s dst.bank (merge latch (aluResult op a (s.readReg .r0)) len dst.pos)
      (aluOvf op a (s.readReg .r0) s.ovf) inB := by
  rw [finishIv, State.aluFlags, afterInput_regs, afterInput_ovf] at h
  exact completesToPort_of_exec h

/-! ## The six forms, for every class (R89, R94) -/

theorem exec_regReg (op : AluOp) (src : Reg) (rot : BitVec 3) (dst : Reg) (s : State) :
    exec (.ofAlu op (.regReg src rot dst)) s =
      finishReg op (rotr8 (s.readReg src) rot.toNat) dst (afterInput s none) := by
  cases op <;> rfl

theorem exec_regAddr (op : AluOp) (src : Reg) (rot : BitVec 3) (b : Bank) (s : State) :
    exec (.ofAlu op (.regAddr src rot b)) s =
      finishReg op (rotr8 (s.readReg src) rot.toNat) b.addrReg (afterInput s none) := by
  cases op <;> rfl

theorem exec_regIv (op : AluOp) (src : Reg) (len : BitVec 3) (dst : IvField) (s : State) :
    exec (.ofAlu op (.regIv src len dst)) s =
      finishIv op (s.readReg src) (s.latchByte dst.bank) len dst (afterInput s (some dst.bank)) := by
  cases op <;> rfl

/-- Register, IV Bus of all four classes: the destination's port is read and takes the merged byte. -/
theorem completesToPort_regIv (op : AluOp) (src : Reg) (len : BitVec 3) (dst : IvField) (s : State) :
    CompletesToPort (.ofAlu op (.regIv src len dst)) s dst.bank
      (merge (s.latchByte dst.bank) (aluResult op (s.readReg src) (s.readReg .r0)) len dst.pos)
      (aluOvf op (s.readReg src) (s.readReg .r0) s.ovf) (some dst.bank) :=
  completesToPort_of_finishIv (exec_regIv op src len dst s)

theorem exec_ivReg (op : AluOp) (src : IvField) (len : BitVec 3) (dst : Reg) (s : State) :
    exec (.ofAlu op (.ivReg src len dst)) s =
      finishReg op (ivOperand (s.latchByte src.bank) src.pos len) dst (afterInput s (some src.bank)) := by
  cases op <;> rfl

theorem exec_ivIv (op : AluOp) (src : IvField) (len : BitVec 3) (dst : IvField) (s : State) :
    exec (.ofAlu op (.ivIv src len dst)) s =
      finishIv op (ivOperand (s.latchByte src.bank) src.pos len) (s.latchByte src.bank) len dst
        (afterInput s (some src.bank)) := by
  cases op <;> rfl

theorem exec_ivAddr (op : AluOp) (src : IvField) (len : BitVec 3) (b : Bank) (s : State) :
    exec (.ofAlu op (.ivAddr src len b)) s =
      finishReg op (ivOperand (s.latchByte src.bank) src.pos len) b.addrReg (afterInput s (some src.bank)) := by
  cases op <;> rfl

/-! ## Result and OVF of each class (R31, R93) -/

theorem aluResult_add (a aux : Byte) : aluResult .add a aux = BitVec.ofNat 8 ((a.toNat + aux.toNat) % 256) :=
  BitVec.eq_of_toNat_eq <| by
    rw [aluResult, toNat_add8_fst, BitVec.toNat_ofNat, Nat.mod_eq_of_lt (Nat.mod_lt _ (by decide))]

/-- What is shown of every class with its result and its OVF, class by class in the spec's terms. -/
theorem each_class {P : AluOp → Byte → Bool → Prop} {a aux : Byte} {ovf : Bool}
    (h : ∀ op, P op (aluResult op a aux) (aluOvf op a aux ovf)) :
    P .move a ovf ∧
    P .add (BitVec.ofNat 8 ((a.toNat + aux.toNat) % 256)) (decide (255 < a.toNat + aux.toNat)) ∧
    P .and (a &&& aux) ovf ∧
    P .xor (a ^^^ aux) ovf :=
  ⟨h .move, aluResult_add a aux ▸ h .add, h .and, h .xor⟩

/-! ## The statements -/

/-- Settles O12: an ordinary register destination after a cycle without a read. -/
theorem registerToRegister : Obligations.RegisterToRegister := by
  intro src rot dst s hplain a aux
  exact each_class (P := fun op v o => CompletesToReg (.ofAlu op (.regReg src rot dst)) s dst v o none) fun op =>
    completesToReg_of_finishReg hplain (exec_regReg op src rot dst s)

/-- Settles O13: an address register destination after a cycle without a read. -/
theorem registerToAddress : Obligations.RegisterToAddress := by
  intro src rot bank s a aux
  exact each_class (P := fun op v o => CompletesToAddr (.ofAlu op (.regAddr src rot bank)) s bank v o none) fun op =>
    completesToAddr_of_finishReg (exec_regAddr op src rot bank s)

/-- Settles O14: a port destination after a read of that same port. -/
theorem registerToIvBus : Obligations.RegisterToIvBus := by
  intro src len dst s a aux latch
  exact ⟨completesToPort_regIv .move src len dst s, completesToPort_regIv .and src len dst s,
    completesToPort_regIv .xor src len dst s⟩

/-- Settles O16: an ordinary register destination after a read of the source's port. -/
theorem ivBusToRegister : Obligations.IvBusToRegister := by
  intro src len dst s hplain a aux
  exact each_class (P := fun op v o => CompletesToReg (.ofAlu op (.ivReg src len dst)) s dst v o (some src.bank))
    fun op => completesToReg_of_finishReg hplain (exec_ivReg op src len dst s)

/-- Settles O17: a port destination after a read of the source's port, whose byte is the one merged into. -/
theorem ivBusToIvBus : Obligations.IvBusToIvBus := by
  intro src len dst s latch a aux
  exact each_class (P := fun op v o => CompletesToPort (.ofAlu op (.ivIv src len dst)) s dst.bank
      (merge latch v len dst.pos) o (some src.bank))
    fun op => completesToPort_of_finishIv (exec_ivIv op src len dst s)

/-- Settles O18: an address register destination after a read of the source's port, which precedes the select. -/
theorem ivBusToAddress : Obligations.IvBusToAddress := by
  intro src len bank s a aux
  exact each_class (P := fun op v o => CompletesToAddr (.ofAlu op (.ivAddr src len bank)) s bank v o (some src.bank))
    fun op => completesToAddr_of_finishReg (exec_ivAddr op src len bank s)

end Sys2Proof.Proofs
end

section
/-! PROOFS. ADD-Register, IV Bus (spec/41_add.md R122). -/

namespace Sys2Proof.Proofs
open Sys2Proof.Machine

/-- The carry of ADD is that of the two whole operands, which no field length cuts (R13, D21). -/
theorem aluOvf_add (a aux : Byte) (ovf : Bool) : aluOvf .add a aux ovf = decide (255 < a.toNat + aux.toNat) := rfl

/-- Settles O15: the ADD class of Register, IV Bus, with its result and carry as the sum of the unmasked operands. -/
theorem addRegisterToIvBus : Obligations.AddRegisterToIvBus := by
  intro src len dst s sum
  have hadd := completesToPort_regIv .add src len dst s
  rwa [aluResult_add, aluOvf_add] at hadd

end Sys2Proof.Proofs
end

section
/-! PROOFS. XEC (spec/44_xec.md): an instruction whose only work after the input phase is on the address registers, the
sums of XEC in their pages, and what the target of an XEC does with the PC the XEC left (R153). -/

namespace Sys2Proof.Proofs
open Sys2Proof.Machine

/-! ## Effects on the address registers alone (R30) -/

theorem outsideSame_setAddrs (s : State) (pc ar : ProgAddr) : s.OutsideSame (s.setAddrs pc ar) :=
  outsideSame_of_bank rfl (State.setAddrs_bank s pc ar) rfl

theorem regsKept_afterInput_setAddrs (s : State) (inB : Option Bank) (pc ar : ProgAddr) :
    s.RegsKept ((afterInput s inB).setAddrs pc ar) s.ovf where
  regs r _ := by rw [State.readReg_setAddrs, inputPhase_readReg (inputPhase_afterInput s inB)]
  ovf := by rw [State.setAddrs_ovf, afterInput_ovf]

/-- The address registers are no part of the bus record, which is that of the input phase. -/
theorem busWas_afterInput_setAddrs (s : State) (inB : Option Bank) (pc ar : ProgAddr) :
    s.BusWas ((afterInput s inB).setAddrs pc ar) inB none := by
  obtain ⟨hinput, houtput, hmclk, hfloats⟩ := busWas_afterInput s inB
  exact ⟨hinput, houtput, hmclk, hfloats⟩

theorem completesAt_of_exec {i : Instr} {s : State} {pc ar : ProgAddr} {inB : Option Bank}
    (h : exec i s = .next ((afterInput s inB).setAddrs pc ar)) : CompletesAt i s pc.toNat ar.toNat inB :=
  ⟨_, h, by rw [State.setAddrs_pc], by rw [State.setAddrs_ar], regsKept_afterInput_setAddrs s inB pc ar,
    outsideSame_trans (outsideSame_afterInput s inB) (outsideSame_setAddrs _ pc ar),
    busWas_afterInput_setAddrs s inB pc ar⟩

/-! ## The two forms of XEC (R150, R151) -/

theorem toNat_xecSum8 (j : BitVec 8) (v : Byte) : (xecSum8 j v).toNat = (j.toNat + v.toNat) % 256 :=
  BitVec.toNat_add j v

/-- Cutting the field to five bits before the sum loses nothing that the sum modulo 32 keeps (R98, D5). -/
theorem toNat_xecSum5 (j : BitVec 5) (v : Byte) : (xecSum5 j v).toNat = (j.toNat + v.toNat) % 32 := by
  rw [xecSum5, BitVec.toNat_add, BitVec.toNat_setWidth]
  exact Nat.add_mod_mod j.toNat v.toNat 32

theorem exec_xecReg (src : Reg) (lit : BitVec 8) (s : State) :
    exec (.xecReg src lit) s =
      .next ((afterInput s none).setAddrs s.pc (page8 s.pc (xecSum8 lit (s.readReg src)))) := rfl

theorem exec_xecIv (src : IvField) (len : BitVec 3) (lit : BitVec 5) (s : State) :
    exec (.xecIv src len lit) s = .next ((afterInput s (some src.bank)).setAddrs s.pc
      (page5 s.pc (xecSum5 lit (ivOperand (s.latchByte src.bank) src.pos len)))) := rfl

theorem exec_xec_readReg {i : Instr} {s t : State} (hxec : isXec i = true) (h : exec i s = .next t) (r : Reg) :
    t.readReg r = s.readReg r := by
  cases i
  case xecReg => cases h; rw [State.executeAt, State.readReg_setAddrs, State.readReg_noRead]
  case xecIv => cases h; rw [State.executeAt, State.readReg_setAddrs, State.readReg_ivRead]
  all_goals cases hxec

/-! ## What the target of an XEC does with PC (R153, R162) -/

theorem exec_nztReg (src : Reg) (lit : BitVec 8) (s : State) :
    exec (.nztReg src lit) s = .next ((afterInput s none).nonzeroTo (s.readReg src) (page8 s.pc lit)) := rfl

theorem exec_nztIv (src : IvField) (len : BitVec 3) (lit : BitVec 5) (s : State) :
    exec (.nztIv src len lit) s = .next ((afterInput s (some src.bank)).nonzeroTo
      (ivOperand (s.latchByte src.bank) src.pos len) (page5 s.pc lit)) := rfl

theorem exec_jmp_pc_ar {a : ProgAddr} {s t : State} (h : exec (.jmp a) s = .next t) : t.pc = a ∧ t.ar = a := by
  cases h
  exact ⟨rfl, rfl⟩

/-- Either way an NZT leaves PC and AR equal: in sequence after PC, or at the branch address. -/
theorem nonzeroTo_pc_ar (s : State) (v : Byte) (a : ProgAddr) :
    (v = 0 → (s.nonzeroTo v a).pc = s.pc + 1 ∧ (s.nonzeroTo v a).ar = s.pc + 1) ∧
    (v ≠ 0 → (s.nonzeroTo v a).pc = a ∧ (s.nonzeroTo v a).ar = (s.nonzeroTo v a).pc) := by
  refine ⟨fun hv => ?_, fun hv => ⟨?_, nonzeroTo_ar_eq_pc s v a⟩⟩
  · rw [State.nonzeroTo_zero s a hv, State.seqNext_pc, State.seqNext_ar]
    exact ⟨rfl, rfl⟩
  · rw [State.nonzeroTo_nonzero s a hv, State.branchTo_pc]

theorem exec_nztReg_pc_ar {src : Reg} {lit : BitVec 8} {s t : State} (h : exec (.nztReg src lit) s = .next t) :
    (s.readReg src = 0 → t.pc = s.pc + 1 ∧ t.ar = s.pc + 1) ∧
    (s.readReg src ≠ 0 → t.pc.toNat = s.pc.toNat / 256 * 256 + lit.toNat ∧ t.ar = t.pc) := by
  rw [exec_nztReg] at h
  cases h
  rw [← page8_toNat]
  obtain ⟨hzero, hnonzero⟩ := nonzeroTo_pc_ar (afterInput s none) (s.readReg src) (page8 s.pc lit)
  rw [afterInput_pc] at hzero
  exact ⟨hzero, fun hv => (hnonzero hv).imp_left (congrArg BitVec.toNat)⟩

theorem exec_nztIv_pc_ar {src : IvField} {len : BitVec 3} {lit : BitVec 5} {s t : State}
    (h : exec (.nztIv src len lit) s = .next t) :
    (ivOperand (s.latchByte src.bank) src.pos len = 0 → t.pc = s.pc + 1 ∧ t.ar = s.pc + 1) ∧
    (ivOperand (s.latchByte src.bank) src.pos len ≠ 0 →
      t.pc.toNat = s.pc.toNat / 32 * 32 + lit.toNat ∧ t.ar = t.pc) := by
  rw [exec_nztIv] at h
  cases h
  rw [← page5_toNat]
  obtain ⟨hzero, hnonzero⟩ := nonzeroTo_pc_ar (afterInput s (some src.bank))
    (ivOperand (s.latchByte src.bank) src.pos len) (page5 s.pc lit)
  rw [afterInput_pc] at hzero
  exact ⟨hzero, fun hv => (hnonzero hv).imp_left (congrArg BitVec.toNat)⟩

/-! ## The statements -/

/-- Settles O19: only the address registers are set, AR to the 8-bit sum in the 256-word page of PC. -/
theorem executeRegister : Obligations.ExecuteRegister := by
  intro src lit s
  rw [← toNat_xecSum8, ← page8_toNat]
  exact completesAt_of_exec (exec_xecReg src lit s)

/-- Settles O20: after a read of the source's port, AR is the 5-bit sum in the 32-word page of PC. -/
theorem executeIvBus : Obligations.ExecuteIvBus := by
  intro src len lit s
  rw [← toNat_xecSum5, ← page5_toNat]
  exact completesAt_of_exec (exec_xecIv src len lit s)

/-- Settles O43: the XEC leaves PC and the registers, so its target acts as it would at the XEC's own address. -/
theorem executeTarget : Obligations.ExecuteTarget := by
  intro x i s t u hx hxt htu
  obtain ⟨hpc, -⟩ := exec_xec hx hxt
  rw [State.seqNext_pc, State.seqNext_ar, ← hpc]
  refine ⟨fun hseq => exec_sequential hseq htu, ?jmp, ?nztReg, ?nztIv, fun hxec => (exec_xec hxec htu).1⟩
  case jmp =>
    rintro a rfl
    exact exec_jmp_pc_ar htu
  case nztReg =>
    rintro src lit rfl
    rw [← exec_xec_readReg hx hxt src]
    exact exec_nztReg_pc_ar htu
  case nztIv =>
    rintro src len lit rfl
    exact exec_nztIv_pc_ar htu

end Sys2Proof.Proofs
end

section
/-! PROOFS. NZT (spec/45_nzt.md): the two outcomes of the test of an operand, each an effect on the address registers
alone after the input phase. -/

namespace Sys2Proof.Proofs
open Sys2Proof.Machine

/-! ## The two outcomes of an NZT (R160, R161) -/

theorem afterInput_seqNext (s : State) (inB : Option Bank) :
    (afterInput s inB).seqNext = (afterInput s inB).setAddrs s.seqNext.pc s.seqNext.ar := by
  rw [State.seqNext, afterInput_pc, State.seqNext_pc, State.seqNext_ar]

/-- An instruction that after its input phase tests `v`: taken, it completes with both address registers at the target;
not taken, with both as after any instruction in sequence. -/
theorem completesAt_of_nonzeroTo {i : Instr} {s : State} {v : Byte} {target : ProgAddr} {inB : Option Bank}
    (h : exec i s = .next ((afterInput s inB).nonzeroTo v target)) :
    (v ≠ 0 → CompletesAt i s target.toNat target.toNat inB) ∧
    (v = 0 → CompletesAt i s s.seqNext.pc.toNat s.seqNext.ar.toNat inB) := by
  constructor
  · intro hv
    rw [State.nonzeroTo_nonzero _ _ hv, State.branchTo] at h
    exact completesAt_of_exec h
  · intro hv
    rw [State.nonzeroTo_zero _ _ hv, afterInput_seqNext] at h
    exact completesAt_of_exec h

/-! ## The statements -/

/-- Settles O21: no bus read, and the target is the literal in the 256-word page of PC. -/
theorem nonZeroRegister : Obligations.NonZeroRegister := by
  intro src lit s
  rw [← page8_toNat]
  exact completesAt_of_nonzeroTo (exec_nztReg src lit s)

/-- Settles O22: one read of the source's bank, and the target is the literal in the 32-word page of PC. -/
theorem nonZeroIvBus : Obligations.NonZeroIvBus := by
  intro src len lit s v
  rw [← page5_toNat]
  exact completesAt_of_nonzeroTo (exec_nztIv src len lit s)

end Sys2Proof.Proofs
end

section
/-! PROOFS. XMIT (spec/46_xmit.md): each of its four forms as an effect after the input phase that puts OVF back to
what it was, and the registers that no form of XMIT loads. -/

namespace Sys2Proof.Proofs
open Sys2Proof.Machine

/-! ## The four forms, in the spelling of the effects after the input phase (R170 to R173) -/

/-- XMIT does not write OVF: the effect that sets it to what it was sets nothing. -/
theorem afterInput_setOvf_ovf (s : State) (inB : Option Bank) :
    (afterInput s inB).setOvf s.ovf = afterInput s inB := by
  cases inB <;> rfl

theorem exec_xmitReg {dst : Reg} (lit : BitVec 8) (s : State) (h : dst.plainDst = true) :
    exec (.xmitReg dst lit) s = .next (((afterInput s none).setOvf s.ovf).setReg dst lit).seqNext := by
  rw [afterInput_setOvf_ovf]
  exact congrArg (onNext · State.seqNext) (writeReg_plain lit s.noRead h)

theorem exec_xmitAddr (b : Bank) (lit : BitVec 8) (s : State) :
    exec (.xmitAddr b lit) s =
      .next ((((afterInput s none).setOvf s.ovf).setReg b.addrReg lit).ivSelect b lit).seqNext := by
  rw [afterInput_setOvf_ovf]
  exact congrArg (onNext · State.seqNext) (writeReg_addr b lit s.noRead)

theorem exec_xmitIv8 (b : Bank) (lit : BitVec 8) (s : State) :
    exec (.xmitIv8 b lit) s = .next (((afterInput s none).setOvf s.ovf).ivWrite b lit).seqNext := by
  rw [afterInput_setOvf_ovf]
  rfl

/-- The literal of a field as the spec's number: zeros above its five bits (D20). -/
theorem litByte_eq_ofNat (j : BitVec 5) : litByte j = BitVec.ofNat 8 j.toNat :=
  (BitVec.ofNat_toNat 8 j).symm

theorem exec_xmitIv (dst : IvField) (len : BitVec 3) (lit : BitVec 5) (s : State) :
    exec (.xmitIv dst len lit) s =
      .next (((afterInput s (some dst.bank)).setOvf s.ovf).ivWrite dst.bank
        (merge (s.latchByte dst.bank) (BitVec.ofNat 8 lit.toNat) len dst.pos)).seqNext := by
  rw [afterInput_setOvf_ovf, ← litByte_eq_ofNat]
  rfl

/-! ## The registers XMIT does not load (R172, R174) -/

/-- An instruction that is not an ADD leaves OVF alone, so that R10 too reads as before unless it is the destination. -/
theorem exec_readReg_of_not_add {i : Instr} {s t : State} {r : Reg} (h : exec i s = .next t)
    (hadd : addOperand i s = none) (hdest : destReg i ≠ some r) : t.readReg r = s.readReg r := by
  by_cases hr : r = .r10
  · rw [hr, readReg_r10, readReg_r10, exec_ovf_of_not_add h hadd]
  · exact onlyDestinationChanges i s t r h hdest hr

theorem xmitDst_not_mem_unloadable {d : Reg} (h : d.xmitDst = true) : d ∉ [Reg.r10, .r12, .r13] := by
  revert h; cases d <;> decide

theorem addrReg_not_mem_unloadable (b : Bank) : b.addrReg ∉ [Reg.r10, .r12, .r13] := by
  cases b <;> decide

/-! ## The statements -/

/-- Settles O23: the literal goes to an ordinary register after a cycle without a read. -/
theorem transmitRegister : Obligations.TransmitRegister := by
  intro dst lit s hdst
  have hplain := reg_plainDst_of_xmitDst hdst
  exact completesToReg_of_exec (reg_plainDst_ne_r10 hplain) (exec_xmitReg lit s hplain)

/-- Settles O24: the literal goes to the bank's address register and selects a port, after a cycle without a read. -/
theorem transmitAddress : Obligations.TransmitAddress :=
  fun bank lit s => completesToAddr_of_exec (exec_xmitAddr bank lit s)

/-- Settles O25: the whole literal goes to the selected port after a cycle without a read. -/
theorem transmitByte : Obligations.TransmitByte :=
  fun bank lit s => completesToPort_of_exec (exec_xmitIv8 bank lit s)

/-- Settles O26: the literal is merged into the byte read from the destination's own port, which then takes it. -/
theorem transmitField : Obligations.TransmitField :=
  fun dst len lit s => completesToPort_of_exec (exec_xmitIv dst len lit s)

/-- Settles O46, form by form: two load a register, never one of these; the other two write a port and load none. -/
theorem transmitCannotLoad : Obligations.TransmitCannotLoad := by
  intro d b f l j8 j5 i s t r hd hi hr h
  simp only [List.mem_cons, List.not_mem_nil, or_false] at hi
  rcases hi with rfl | rfl | rfl | rfl
  · exact exec_readReg_of_not_add h rfl fun heq => xmitDst_not_mem_unloadable hd (Option.some.inj heq ▸ hr)
  · exact exec_readReg_of_not_add h rfl fun heq => addrReg_not_mem_unloadable b (Option.some.inj heq ▸ hr)
  · exact exec_readReg_of_not_add h rfl nofun
  · exact exec_readReg_of_not_add h rfl nofun

end Sys2Proof.Proofs
end

section
/-! PROOFS. JMP (spec/47_jmp.md): the effect of a branch after an input phase without a read. -/

namespace Sys2Proof.Proofs
open Sys2Proof.Machine

/-- A jump takes its address into both address registers after a cycle without a read (R180). -/
theorem exec_jmp (addr : ProgAddr) (s : State) :
    exec (.jmp addr) s = .next ((afterInput s none).setAddrs addr addr) := rfl

/-- Settles O27: only the address registers are set, both to the address of the instruction. -/
theorem jumpToAddress : Obligations.JumpToAddress :=
  fun addr s => completesAt_of_exec (exec_jmp addr s)

end Sys2Proof.Proofs
end

section
/-! PROOFS. What stands in the place of exceptions (spec/60_exceptions.md): every form completes and the reserved words
alone are refused, a halted cycle, and the command words of a coprocessor that is not there. -/

namespace Sys2Proof.Proofs
open Sys2Proof.Machine

/-! ## Every instruction that is not reserved completes (R190, R192) -/

theorem writeReg_seqNext_completes {r : Reg} (v : Byte) (s : State) (h : r ≠ .r10) :
    ∃ t, onNext (writeReg r v s) State.seqNext = .next t := by
  rcases reg_dst_cases r with hplain | ⟨b, rfl⟩ | rfl
  · rw [writeReg_plain v s hplain]
    exact ⟨_, onNext_next _ _⟩
  · rw [writeReg_addr]
    exact ⟨_, onNext_next _ _⟩
  · exact absurd rfl h

theorem finishReg_completes (op : AluOp) (a : Byte) {dst : Reg} (s : State) (h : dst ≠ .r10) :
    ∃ t, finishReg op a dst s = .next t :=
  writeReg_seqNext_completes _ (s.aluFlags op a) h

theorem exec_ofAlu_completes (op : AluOp) {f : AluForm} (s : State) (hwf : f.wellFormed = true)
    (hres : (Instr.ofAlu op f).reserved = false) : ∃ t, exec (.ofAlu op f) s = .next t := by
  cases f with
  | regReg => rw [exec_regReg]; exact finishReg_completes _ _ _ (reg_plainDst_ne_r10 hwf)
  | regAddr _ _ b => rw [exec_regAddr]; exact finishReg_completes _ _ _ (bank_addrReg_ne_r10 b)
  | regIv => rw [exec_regIv]; exact ⟨_, rfl⟩
  | ivReg => rw [exec_ivReg]; exact finishReg_completes _ _ _ (reg_plainDst_ne_r10 hwf)
  | ivIv => rw [exec_ivIv]; exact ⟨_, rfl⟩
  | ivAddr _ _ b => rw [exec_ivAddr]; exact finishReg_completes _ _ _ (bank_addrReg_ne_r10 b)
  | reserved src rl => exact absurd ((reserved_ofAlu_iff op _).mpr ⟨src, rl, rfl⟩) (Bool.eq_false_iff.mp hres)

/-- Only a write to R10 could stop an instruction, and no form of R94 has that destination. -/
theorem exec_completes {i : Instr} (s : State) (hwf : i.wellFormed = true) (hres : i.reserved = false) :
    ∃ t, exec i s = .next t := by
  cases i using instr_class_cases with
  | alu op f => exact exec_ofAlu_completes op s (ofAlu_wellFormed op f ▸ hwf) hres
  | xecReg | xecIv | nztReg | nztIv | xmitIv8 | xmitIv | jmp => exact ⟨_, rfl⟩
  | xmitReg dst lit =>
    exact writeReg_seqNext_completes lit s.noRead (reg_plainDst_ne_r10 (reg_plainDst_of_xmitDst hwf))
  | xmitAddr b lit => exact writeReg_seqNext_completes lit s.noRead (bank_addrReg_ne_r10 b)
  | xmitReserved => cases hres

/-! ## Reserved words are refused, and nothing else is (R97, R190) -/

theorem exec_of_reserved {i : Instr} (s : State) (h : i.reserved = true) :
    exec i s = .refused .reservedDestination := by
  cases i using instr_class_cases with
  | alu op f =>
    obtain ⟨src, rl, rfl⟩ := (reserved_ofAlu_iff op f).mp h
    cases op <;> rfl
  | xmitReserved => rfl
  | xecReg | xecIv | nztReg | nztIv | xmitReg | xmitAddr | xmitIv8 | xmitIv | jmp => cases h

theorem decodeWord_wellFormed (w : Word) : (decodeWord w).wellFormed = true :=
  wellFormed_of_wordReadsAs (wordReadsAs_decodeWord w)

theorem step_of_halted {s : State} (hreset : s.resetLow = false) (hhalt : s.haltLow = true) :
    step s = .next (haltCycle s.takeInput) := by
  simp [step, hreset, hhalt]

theorem step_completes_of_not_runs {s : State} (h : ¬s.runs) : ∃ t, step s = .next t := by
  cases hreset : s.resetLow with
  | true => exact ⟨_, step_of_resetLow hreset⟩
  | false =>
    have hhalt : s.haltLow = true := Bool.eq_true_of_not_eq_false fun hhigh => h ⟨hreset, hhigh⟩
    exact ⟨_, step_of_halted hreset hhalt⟩

/-! ## No cycle depends on the record of the cycle before (R60, R198)

The bus record is written anew at the start of each cycle, so what a halted cycle left in it is not seen in the next. -/

/-- The machine with another record of its last cycle's bus activity. -/
def withBus (c : BusCycle) (s : State) : State := { s with bus := c }

theorem withBus_readReg (c : BusCycle) (s : State) (r : Reg) : (withBus c s).readReg r = s.readReg r :=
  State.readReg_congr rfl rfl r

theorem withBus_latchByte (c : BusCycle) (s : State) (b : Bank) : (withBus c s).latchByte b = s.latchByte b := by
  cases b <;> rfl

theorem withBus_pc (c : BusCycle) (s : State) : (withBus c s).pc = s.pc := rfl

theorem afterInput_withBus (c : BusCycle) (s : State) (inB : Option Bank) :
    afterInput (withBus c s) inB = afterInput s inB := by
  rcases inB with _ | _ | _ <;> rfl

theorem exec_ofAlu_withBus (c : BusCycle) (op : AluOp) (f : AluForm) (s : State) :
    exec (.ofAlu op f) (withBus c s) = exec (.ofAlu op f) s := by
  cases f with
  | regReg => rw [exec_regReg, exec_regReg, withBus_readReg, afterInput_withBus]
  | regAddr => rw [exec_regAddr, exec_regAddr, withBus_readReg, afterInput_withBus]
  | regIv => rw [exec_regIv, exec_regIv, withBus_readReg, withBus_latchByte, afterInput_withBus]
  | ivReg => rw [exec_ivReg, exec_ivReg, withBus_latchByte, afterInput_withBus]
  | ivIv => rw [exec_ivIv, exec_ivIv, withBus_latchByte, afterInput_withBus]
  | ivAddr => rw [exec_ivAddr, exec_ivAddr, withBus_latchByte, afterInput_withBus]
  | reserved => cases op <;> rfl

/-- An instruction uses the state before it only through its operands, PC and the state after the input phase. -/
theorem exec_withBus (c : BusCycle) (i : Instr) (s : State) : exec i (withBus c s) = exec i s := by
  cases i using instr_class_cases with
  | alu op f => exact exec_ofAlu_withBus c op f s
  | xecReg => rw [exec_xecReg, exec_xecReg, withBus_readReg, withBus_pc, afterInput_withBus]
  | xecIv => rw [exec_xecIv, exec_xecIv, withBus_latchByte, withBus_pc, afterInput_withBus]
  | nztReg => rw [exec_nztReg, exec_nztReg, withBus_readReg, withBus_pc, afterInput_withBus]
  | nztIv => rw [exec_nztIv, exec_nztIv, withBus_latchByte, withBus_pc, afterInput_withBus]
  | xmitIv dst => cases dst.bank <;> rfl
  | xmitReg | xmitAddr | xmitIv8 | xmitReserved | jmp => rfl

theorem applyChanges_withBus (c : BusCycle) (s : State) (cs : List PortChange) :
    (withBus c s).applyChanges cs = withBus c (s.applyChanges cs) := by
  induction cs generalizing s with
  | nil => rfl
  | cons p cs ih =>
    have hport : (withBus c s).setPort p.bank p.addr p.data = withBus c (s.setPort p.bank p.addr p.data) := by
      cases p.bank <;> rfl
    rw [State.applyChanges, State.applyChanges, hport, ih]

theorem takeInput_withBus (c : BusCycle) (s : State) : (withBus c s).takeInput = withBus c s.takeInput :=
  congrArg (fun u : State => { u with inputs := s.inputs.tail }) (applyChanges_withBus c s s.cycleInput.ports)

theorem step_withBus (c : BusCycle) (s : State) : step (withBus c s) = step s := by
  have hreset : (withBus c s).resetLow = s.resetLow := rfl
  have hhalt : (withBus c s).haltLow = s.haltLow := rfl
  have hword : (withBus c s.takeInput).fetchWord = s.takeInput.fetchWord := rfl
  have hresetCycle : resetCycle (withBus c s.takeInput) = resetCycle s.takeInput := rfl
  have hhaltCycle : haltCycle (withBus c s.takeInput) = haltCycle s.takeInput := rfl
  rw [step, hreset, hhalt, takeInput_withBus, hword, exec_withBus, hresetCycle, hhaltCycle, step]

theorem takeInput_of_no_changes {s : State} (h : s.cycleInput.ports = []) :
    s.takeInput = { s with inputs := s.inputs.tail } := by
  rw [State.takeInput, h, State.applyChanges]

/-- What a halted cycle without port changes leaves differs from the state before only in the inputs taken, the pulse
given and the bus record. -/
theorem haltCycle_of_no_changes {s : State} (h : s.cycleInput.ports = []) :
    haltCycle s.takeInput = withBus s.takeInput.noRead.bus { s with inputs := s.inputs.tail, pulseDue := false } := by
  rw [takeInput_of_no_changes h]
  rfl

/-! ## The 8X310's command words (R201, R202) -/

theorem readReg_of_regWritten_same {s t : State} {dst : Reg} (h : s.RegWritten t dst (s.readReg dst) s.ovf)
    (q : Reg) : t.readReg q = s.readReg q := by
  by_cases hdst : q = dst
  · rw [hdst, h.value]
  · by_cases hovf : q = .r10
    · rw [hovf, readReg_r10, readReg_r10, h.ovf]
    · exact h.others q hdst hovf

theorem completesToReg_moveRegReg_self {r : Reg} (s : State) (hplain : r.plainDst = true) :
    CompletesToReg (.moveRegReg r 0 r) s r (s.readReg r) s.ovf none := by
  obtain ⟨hmove, -⟩ := registerToRegister r 0 r s hplain
  rwa [show (0 : BitVec 3).toNat = 0 from rfl, rotr8_zero] at hmove

/-- Each of the words of Table 5-2 moves one of R2 to R6 onto itself, unrotated. -/
theorem decodeWord_coprocessor {w : Word} (h : w ∈ [0x0505, 0x0404, 0x0606, 0x0303, (0x0202 : Word)]) :
    ∃ r : Reg, r.plainDst = true ∧ decodeWord w = .moveRegReg r 0 r := by
  simp only [List.mem_cons, List.not_mem_nil, or_false] at h
  rcases h with rfl | rfl | rfl | rfl | rfl
  · exact ⟨.r5, rfl, decodeWord_eq_of_encodeWord rfl rfl⟩
  · exact ⟨.r4, rfl, decodeWord_eq_of_encodeWord rfl rfl⟩
  · exact ⟨.r6, rfl, decodeWord_eq_of_encodeWord rfl rfl⟩
  · exact ⟨.r3, rfl, decodeWord_eq_of_encodeWord rfl rfl⟩
  · exact ⟨.r2, rfl, decodeWord_eq_of_encodeWord rfl rfl⟩

/-! ## The statements -/

/-- Settles O34: an instruction is stopped by a write to R10 only, which is the reserved rows. -/
theorem everyFormCompletes : Obligations.EveryFormCompletes :=
  fun _ s hwf hres => exec_completes s hwf hres

/-- Settles O33: cycles in which nothing runs complete, and an instruction that runs completes or is reserved. -/
theorem stepTotal : Obligations.StepTotal := by
  intro s
  rw [takeInput_fetchWord]
  have hrefused (hruns : s.runs) (hres : (decodeWord s.fetchWord).reserved = true) :
      step s = .refused .reservedDestination := by
    rw [step_of_runs hruns, exec_of_reserved _ hres]
  refine ⟨⟨?_, fun hfree => ?_⟩, hrefused⟩
  · rintro ⟨t, ht⟩ ⟨hruns, hres⟩
    cases (hrefused hruns hres).symm.trans ht
  · by_cases hruns : s.runs
    · rw [step_of_runs hruns]
      exact exec_completes _ (decodeWord_wellFormed _) (Bool.eq_false_iff.mpr fun hres => hfree ⟨hruns, hres⟩)
    · exact step_completes_of_not_runs hruns

/-- Settles O32: a halted cycle is a cycle's start and nothing more, and the record it leaves is not seen by the next
step. (The plain name would hide the model's own `haltCycle` in this namespace.) -/
theorem haltCycle_spec : Obligations.HaltCycle := by
  intro s hreset hhalt
  refine ⟨_, step_of_halted hreset hhalt, s.takeInput_pc, s.takeInput_ar, ⟨fun r _ => ?_, s.takeInput_ovf⟩, ?_,
    rfl, outsideSame_afterInput s.takeInput none, s.takeInput_floats, fun hports => ?_⟩
  · exact State.readReg_congr s.takeInput_regs s.takeInput_ovf r
  · rw [haltCycle, State.noRead_bus, State.takeInput_pulseDue]
  · rw [haltCycle_of_no_changes hports, step_withBus]

/-- Settles O53: a move of a register onto itself writes the value that is there, and OVF is not written. -/
theorem coprocessorWordsDoNothing : Obligations.CoprocessorWordsDoNothing := by
  intro w s hw
  obtain ⟨r, hplain, hdecode⟩ := decodeWord_coprocessor hw
  obtain ⟨t, hexec, hwritten, hout, -⟩ := completesToReg_moveRegReg_self s hplain
  rw [hdecode]
  exact ⟨r, rfl, t, hexec, readReg_of_regWritten_same hwritten, hout, hwritten.pc, hwritten.ar⟩

end Sys2Proof.Proofs
end

section
/-! PROOFS. RESET (spec/70_reset_and_hazards.md): the state it leaves, and the MCLK pulse between its end and the
resumption of operation. The flag `pulseDue` carries the level of RESET from one cycle to the next. -/

namespace Sys2Proof.Proofs
open Sys2Proof.Machine

/-! ## The state after RESET (R221, R222) -/

theorem reset_bank (b : Bank) : State.reset.bank b = BankState.reset := by
  cases b <;> rfl

theorem reset_sel (b : Bank) : (State.reset.bank b).sel = none := by
  rw [reset_bank]
  rfl

theorem selWf_of_none_selected {s : State} (h : ∀ b, (s.bank b).sel = none) : s.selWf := by
  intro b a ha
  cases (h b).symm.trans ha

theorem reset_inv : State.reset.Inv where
  mem := rfl
  sel := selWf_of_none_selected reset_sel
  page := samePage_of_ar_eq_pc rfl
  pulse := rfl

/-! ## The MCLK pulse by the level of RESET (R220) -/

theorem step_pulse_of_resetLow {s t : State} (h : step s = .next t) (hreset : s.resetLow = true) :
    t.bus.mclk = false ∧ t.bus.pulseBefore = false ∧ t.pulseDue = true := by
  cases (step_of_resetLow hreset).symm.trans h
  exact ⟨rfl, rfl, rfl⟩

/-- With RESET high the pulse that was due has been given, whether the cycle is halted or runs an instruction. -/
theorem step_pulse_of_resetHigh {s t : State} (h : step s = .next t) (hreset : s.resetLow = false) :
    t.bus.mclk = true ∧ t.bus.pulseBefore = s.pulseDue ∧ t.pulseDue = false := by
  rw [← s.takeInput_pulseDue]
  rcases step_cases h with ⟨hlow, -⟩ | ⟨-, -, rfl⟩ | ⟨-, -, hexec⟩
  · cases hreset.symm.trans hlow
  · exact inputPhase_pulse (inputPhase_noRead s.takeInput)
  · exact exec_pulse hexec

theorem step_pulseDue {s t : State} (h : step s = .next t) : t.pulseDue = s.resetLow := by
  cases hreset : s.resetLow with
  | true => exact (step_pulse_of_resetLow h hreset).right.right
  | false => exact (step_pulse_of_resetHigh h hreset).right.right

/-! ## The statements -/

/-- Settles O36: no port is selected on either bank, which gives the last clause and, in the invariant, `selWf`. -/
theorem resetState : Obligations.ResetState :=
  ⟨reset_inv, rfl, rfl, reset_sel⟩

/-- Settles O54: the first step leaves the level of RESET in `pulseDue`, and the second gives the pulse that is due exactly
where its own RESET is high. -/
theorem resumptionPulse : Obligations.ResumptionPulse := by
  refine ⟨rfl, fun s t u hst htu => ⟨fun hlow => ?_, fun hhigh => ?_⟩⟩
  · obtain ⟨hmclk, hbefore, -⟩ := step_pulse_of_resetLow htu hlow
    exact ⟨hbefore, hmclk⟩
  · obtain ⟨hmclk, hbefore, -⟩ := step_pulse_of_resetHigh htu hhigh
    exact ⟨hmclk, hbefore.trans (step_pulseDue hst)⟩

end Sys2Proof.Proofs
end
